-- ==== Sys2Proof/Word.lean ====
section
/-! DEFINITION. The word types of the block: the fixed widths the spec names (00_scope R7, R9). -/

namespace Sys2Proof

/-- A byte of the serial line, of a table or of the fault mask (R9). -/
abbrev Byte := BitVec 8

/-- A 16-bit quantity: counter value, register address, register value, CRC (R7, R44, R45). -/
abbrev Half := BitVec 16

/-- A 32-bit quantity: an event word (R91), a capture timestamp, a period (R104). -/
abbrev Word := BitVec 32

/-- A request frame as one number, byte 0 in the top eight bits (R100). -/
abbrev FrameBits := BitVec 64

end Sys2Proof
end

