-- ==== Sys2Proof/Config.lean ====
section
/-! DEFINITION. The configuration record of 00_scope R7 (every open constant of the source, with the
reference values of 92_eei_decisions.md), the constants the source fixes, and the one free value. -/

namespace Sys2Proof

/-- How `>>` rounds a negative product in PWM_MATCH. The spec fixes `floor` (R138, D10); 93 U1 lets a
model carry the toward-zero variant as a parameter. -/
inductive ProductShift where
  | floor
  | towardZero
deriving DecidableEq, Repr

/-- FAULT_BIT (R7): the bit of the mask each fault of R48's set takes. -/
structure FaultBits where
  shortCircuit : Fin 8
  pressureSensorTimeout : Fin 8
  undervoltage : Fin 8
  overvoltage : Fin 8
  overcurrent : Fin 8
  oscillatorFailure : Fin 8
  overTemperature : Fin 8
  noFlowTimeout : Fin 8
deriving DecidableEq, Repr

/-- The positions in the order of the source's list (D42), those of R48, R107 and R239. -/
def FaultBits.listOrder : FaultBits := ⟨0, 1, 2, 3, 4, 5, 6, 7⟩

/-- The eight positions. -/
def FaultBits.positions (b : FaultBits) : List (Fin 8) :=
  [b.shortCircuit, b.pressureSensorTimeout, b.undervoltage, b.overvoltage,
   b.overcurrent, b.oscillatorFailure, b.overTemperature, b.noFlowTimeout]

/-- The named parameters of R7. The rules never use a reference value, so every definition of the model
takes this record; it is held in State and no operation writes it (R20). -/
structure Config where
  /-- RAMP_DIV, PWM_CARRIER invocations per ramp and tick step (D7). -/
  rampDiv : Nat
  /-- ACC_SHIFT, accumulator to table index (D6). -/
  accShift : Nat
  /-- VF_GAIN, the volts-per-hertz gain (D8). -/
  vfGain : Nat
  /-- VF_SHIFT, the gain's shift (D6, D8). -/
  vfShift : Nat
  /-- MOD_SHIFT, product to compare value (D6). -/
  modShift : Nat
  /-- The rounding of that shift (D10, 93 U1). -/
  productShift : ProductShift
  /-- HALF_SCALE, the compare offset (D9). -/
  halfScale : Nat
  /-- CMP_W, width of a compare register (D9). -/
  cmpW : Nat
  /-- FREQ_W, width of `freq` and `reqFreq` (D11). -/
  freqW : Nat
  /-- TICK_W, width of `tick` (D11). -/
  tickW : Nat
  /-- CAP_LOW, the "low counter value" threshold (D21). -/
  capLow : Nat
  /-- PERIOD_MIN, PERIOD_MAX, the plausible range in counter ticks, both ends in it (D24). -/
  periodMin : Nat
  periodMax : Nat
  /-- ADDR_DEFAULT, the station address after reset (D43). -/
  addrDefault : Byte
  /-- TELEMETRY_DEFINED, the register addresses with a telemetry value behind them (D38). -/
  telemetryDefined : List Half
  /-- FAULT_BIT (D42; log 17). -/
  faultBit : FaultBits
deriving DecidableEq, Repr

/-- The reference values of 92_eei_decisions.md, those the test vectors use. -/
def Config.reference : Config where
  rampDiv := 32
  accShift := 8
  vfGain := 314
  vfShift := 8
  modShift := 8
  productShift := .floor
  halfScale := 128
  cmpW := 8
  freqW := 16
  tickW := 16
  capLow := 0x8000
  periodMin := 0x400
  periodMax := 0xFFFFF
  addrDefault := 1
  telemetryDefined := [0, 1, 2, 3, 4, 5, 6, 7]
  faultBit := .listOrder

/-- TABLE_LEN, entries per phase table (R7). -/
def tableLen : Nat := 256

/-- MOD_MAX, the modulation-depth clamp (R7, R26). -/
def modMax : Nat := 251

/-- AMP, the table amplitude (R7). -/
def tableAmp : Nat := 127

/-- FC_READ, the one supported function code (R7, R187). -/
def fcRead : Byte := 0x03

/-- MAX_REGS, the largest register count answered (R7, R191). -/
def maxRegs : Nat := 125

/-- CRC_POLY, reflected (R7, R181). -/
def crcPoly : Half := 0xA001

/-- CRC_INIT (R7, R181). -/
def crcInit : Half := 0xFFFF

/-- "A calibrated linear transducer mapping" (R223). Its slope, offset and direction, the slope's sign, are not
in the source (91 N22): both are parameters. Widths and units are not there either; exact rational numbers
stand for the pressures, the model's choice (log 30). -/
structure Transducer where
  slope : Rat
  offset : Rat
deriving DecidableEq, Repr

/-- Configuration of the environment's rules only (45 R221 to R225; 60 R240, R242, R245): no rule of the
block reads it. The numbers of R221 and R222 have no width in the source (91 N22) and none here (log 30). -/
structure EnvConfig where
  /-- QUIET, the debounce quiet window in ticks (D52). -/
  quiet : Nat
  /-- T_SENSOR, the pressure-sensor liveness timeout in ticks, open with no reference value (D53). -/
  tSensor : Nat
  stopFrequency : Nat
  baseFrequency : Int
  minFrequency : Nat
  maxFrequency : Nat
  /-- Minimum on-time in ticks (R221). -/
  stopDelay : Nat
  transducer : Transducer
  /-- The stored parameters the two thresholds are derived from (R223), as loaded before the first pass
  (R263). -/
  onParameter : Rat
  offParameter : Rat
  /-- The "ignore faults" option (R245). -/
  ignoreFaults : Bool
deriving DecidableEq, Repr

/-- FREE VALUE. Whether the regulator's division by 4 rounds its inexact quotient up or down: how it rounds
the source does not settle (45 R222, 91 N22; log 25). Environment only; nothing in Lean can evaluate it. -/
opaque Config.freeRoundUp (x : Rat) : Bool

end Sys2Proof
end

