-- ==== Sys2Proof/Syntax.lean ====
section
/-! DEFINITION. The operations of the block, one constructor per row of spec/opcode_table.json, the names
under which an encoding is refused, and the objects the environment hands to the block. -/

namespace Sys2Proof

/-- The operations (30_encoding R91, R100). Operands hold the encoding's bits; `WellFormed.lean` says
which values are legal. -/
inductive Instr where
  /-- PWM_CARRIER (R131). -/
  | pwmCarrier
  /-- PWM_MATCH p (R137), `p` = w[1:0]; 3 is reserved (R93, R110). -/
  | pwmMatch (p : BitVec 2)
  /-- DRV_START (R141). -/
  | drvStart
  /-- DRV_STOP (R142). -/
  | drvStop
  /-- DRV_SETREQ v (R143, R94). -/
  | drvSetreq (v : Half)
  /-- DRV_SETDIR d (R144, R95). -/
  | drvSetdir (d : BitVec 1)
  /-- TMR_OVF (R161). -/
  | tmrOvf
  /-- CAP_EDGE c, ovf (R163, R96). -/
  | capEdge (c : Half) (ovf : BitVec 1)
  /-- PS_CONSUME (R168). -/
  | psConsume
  /-- PS_RESET (R172). -/
  | psReset
  /-- RX_BYTE b (R186, R97). -/
  | rxByte (b : Byte)
  /-- RX_SILENCE (R185). -/
  | rxSilence
  /-- SER_POLL t (R192, R98). -/
  | serPoll (t : Half)
  /-- TX_GUARD (R198). -/
  | txGuard
  /-- CFG_ADDR a (R200, R99). -/
  | cfgAddr (a : Byte)
  /-- RESET (R260). -/
  | reset
  /-- SC_TRAP (R236). -/
  | scTrap
  /-- READ_HOLDING (R100): station address, start register, register count, CRC low byte, CRC high byte;
  the function code 0x03 is fixed in the row. -/
  | readHolding (a : Byte) (s n : Half) (l h : Byte)
deriving DecidableEq, Repr

/-- Why an encoding is reserved (R110), or a frame is not READ_HOLDING's (R100). -/
inductive Reserved where
  /-- Unit 0 or 4 to 14 (R92). -/
  | unit
  /-- A unit of R92 with an op R91 has no row for. -/
  | op
  /-- A bit set outside the named operand bits. -/
  | operandBits
  /-- PWM_MATCH with p = 3. -/
  | phase
  /-- A frame whose byte 1 is not 0x03. -/
  | functionCode
deriving DecidableEq, Repr

/-- One object the environment hands to the block: an event word (R90 a), a whole request frame on the
serial line (R90 b, R108), or the environment's own write of its seven fault bits (R48, R239; log 16), the
short-circuit bit of `mask` ignored. -/
inductive Input where
  | word (w : Word)
  | frame (f : FrameBits)
  | envFault (mask : Byte)
deriving DecidableEq, Repr

/-- The execution contexts of 60_exceptions R234. -/
inductive Context where
  | mainLoop
  | interrupt
  | trap
  | reset
deriving DecidableEq, Repr

end Sys2Proof
end

