-- ==== Sys2Proof/WellFormed.lean ====
section
/-! DEFINITION. Which operand values an operation admits. R110: "Operand values inside the named bits are
all legal", but for PWM_MATCH with p = 3. -/

namespace Sys2Proof

/-- Legal operands (R110). -/
def Instr.wellFormed : Instr → Bool
  | .pwmCarrier => true
  | .pwmMatch p => p != 3#2
  | .drvStart => true
  | .drvStop => true
  | .drvSetreq _ => true
  | .drvSetdir _ => true
  | .tmrOvf => true
  | .capEdge _ _ => true
  | .psConsume => true
  | .psReset => true
  | .rxByte _ => true
  | .rxSilence => true
  | .serPoll _ => true
  | .txGuard => true
  | .cfgAddr _ => true
  | .reset => true
  | .scTrap => true
  | .readHolding _ _ _ _ _ => true

end Sys2Proof
end

