-- ==== Sys2Proof/Decode.lean ====
section
/-! DEFINITION. Decoding of event words (30_encoding R91 to R99, R110) and of request frames (R100), total,
refusing by name; then the encoder. -/

namespace Sys2Proof

/-- The bits of `w` from `lo` up equal `value`: a row's `w & mask == match`, every mask of R91 being all
ones from bit `lo` up. -/
def fixedAbove (w : Word) (lo value : Nat) : Bool :=
  w.toNat >>> lo == value

/-- The opcode map of R91: mnemonic, lowest fixed bit, and the value of the bits from it up
(match >> lo). -/
def opcodeRows : List (String × Nat × Nat) :=
  [("PWM_CARRIER", 0, 0x10000000), ("PWM_MATCH", 2, 0x4400000),
   ("DRV_START", 0, 0x12000000), ("DRV_STOP", 0, 0x13000000),
   ("DRV_SETREQ", 16, 0x1400), ("DRV_SETDIR", 1, 0xA800000)] ++
  [("TMR_OVF", 0, 0x20000000), ("CAP_EDGE", 17, 0x1080),
   ("PS_CONSUME", 0, 0x22000000), ("PS_RESET", 0, 0x23000000)] ++
  [("RX_BYTE", 8, 0x300000), ("RX_SILENCE", 0, 0x31000000), ("SER_POLL", 16, 0x3200),
   ("TX_GUARD", 0, 0x33000000), ("CFG_ADDR", 8, 0x340000)] ++
  [("RESET", 0, 0xF0000000), ("SC_TRAP", 0, 0xF1000000)]

/-- Number of ops R91 gives a unit, counted from op 0; none for a reserved unit (R92). -/
def unitOps : Nat → Option Nat
  | 1 => some 6
  | 2 => some 4
  | 3 => some 5
  | 15 => some 2
  | _ => none

/-- The name under which a word that matches no row is refused (R110). -/
def whyReserved (w : Word) : Reserved :=
  match unitOps (w.toNat >>> 28) with
  | none => .unit
  | some n => if n ≤ (w.toNat >>> 24) % 16 then .op else .operandBits

/-- Decode an event word (R91). A row is selected when all its fixed bits agree; operands are the low bits,
zero-extended (R93 to R99). -/
def decodeWord (w : Word) : Except Reserved Instr :=
  if fixedAbove w 0 0x10000000 then .ok .pwmCarrier
  else if fixedAbove w 2 0x4400000 then
    if w.setWidth 2 = 3#2 then .error .phase else .ok (.pwmMatch (w.setWidth 2))
  else if fixedAbove w 0 0x12000000 then .ok .drvStart
  else if fixedAbove w 0 0x13000000 then .ok .drvStop
  else if fixedAbove w 16 0x1400 then .ok (.drvSetreq (w.setWidth 16))
  else if fixedAbove w 1 0xA800000 then .ok (.drvSetdir (w.setWidth 1))
  else if fixedAbove w 0 0x20000000 then .ok .tmrOvf
  else if fixedAbove w 17 0x1080 then .ok (.capEdge (w.setWidth 16) (w.extractLsb' 16 1))
  else if fixedAbove w 0 0x22000000 then .ok .psConsume
  else if fixedAbove w 0 0x23000000 then .ok .psReset
  else if fixedAbove w 8 0x300000 then .ok (.rxByte (w.setWidth 8))
  else if fixedAbove w 0 0x31000000 then .ok .rxSilence
  else if fixedAbove w 16 0x3200 then .ok (.serPoll (w.setWidth 16))
  else if fixedAbove w 0 0x33000000 then .ok .txGuard
  else if fixedAbove w 8 0x340000 then .ok (.cfgAddr (w.setWidth 8))
  else if fixedAbove w 0 0xF0000000 then .ok .reset
  else if fixedAbove w 0 0xF1000000 then .ok .scTrap
  else .error (whyReserved w)

/-- Byte `k` of a frame in arrival order, byte 0 leftmost (R100). -/
def frameByte (f : FrameBits) (k : Nat) : Byte :=
  f.extractLsb' (56 - 8 * k) 8

/-- The eight bytes of a frame in arrival order (R100). -/
def frameBytes (f : FrameBits) : List Byte :=
  [frameByte f 0, frameByte f 1, frameByte f 2, frameByte f 3,
   frameByte f 4, frameByte f 5, frameByte f 6, frameByte f 7]

/-- Decode a request frame (R100): byte 1 is fixed to 0x03. -/
def decodeFrame (f : FrameBits) : Except Reserved Instr :=
  if frameByte f 1 = fcRead then
    .ok (.readHolding (frameByte f 0) (frameByte f 2 ++ frameByte f 3)
      (frameByte f 4 ++ frameByte f 5) (frameByte f 6) (frameByte f 7))
  else .error .functionCode

/-- Decode an object of the environment; its write of the fault bits is no operation of the block. -/
def decodeInput : Input → Option (Except Reserved Instr)
  | .word w => some (decodeWord w)
  | .frame f => some (decodeFrame f)
  | .envFault _ => none

/-- The object that spec/opcode_table.json's bits stand for: 32-bit event words, and the 64-bit frame
numbered as the table numbers it (byte 0 at bits 63:56). -/
def tableInput (nbits w : Nat) : Input :=
  if nbits ≤ 32 then .word (BitVec.ofNat 32 w) else .frame (BitVec.ofNat 64 w)

/-- The instruction the decoder reads from the table's bits. -/
def decodeTableWord (nbits w : Nat) : Option Instr :=
  match decodeInput (tableInput nbits w) with
  | some (.ok i) => some i
  | _ => none

/-- The encoder: the words of R91 and the frame of R100. -/
def encode : Instr → Input
  | .pwmCarrier => .word 0x10000000
  | .pwmMatch p => .word (0x4400000#30 ++ p)
  | .drvStart => .word 0x12000000
  | .drvStop => .word 0x13000000
  | .drvSetreq v => .word (0x1400#16 ++ v)
  | .drvSetdir d => .word (0xA800000#31 ++ d)
  | .tmrOvf => .word 0x20000000
  | .capEdge c ovf => .word (0x1080#15 ++ ovf ++ c)
  | .psConsume => .word 0x22000000
  | .psReset => .word 0x23000000
  | .rxByte b => .word (0x300000#24 ++ b)
  | .rxSilence => .word 0x31000000
  | .serPoll t => .word (0x3200#16 ++ t)
  | .txGuard => .word 0x33000000
  | .cfgAddr a => .word (0x340000#24 ++ a)
  | .reset => .word 0xF0000000
  | .scTrap => .word 0xF1000000
  | .readHolding a s n l h => .frame (a ++ fcRead ++ s ++ n ++ l ++ h)

end Sys2Proof
end

