-- ==== Sys2Proof/Machine/State.lean ====
section
/-! DEFINITION. The state of the block (10_state R20 to R49) as plain data, its reset value (70_reset R260),
and the reasons a step can stop. Variables whose width is a configuration parameter (FREQ_W, TICK_W, CMP_W,
8 + ACC_SHIFT) are naturals, truncated at every write (R10) and bounded by the invariant of Safety.lean. -/

namespace Sys2Proof.Machine

/-- A file of three like registers, indexed 0 to 2: `cmp` (R31), `ring` (R36). -/
@[ext]
structure File3 (α : Type) where
  r0 : α
  r1 : α
  r2 : α
deriving DecidableEq, Repr

/-- `rotDir` (R23): 0 forward, 1 reverse. -/
inductive Direction where
  | forward
  | reverse
deriving DecidableEq, Repr

/-- `fState` (R39), in the order of its codes 0 to 3 (R106). -/
inductive FrameState where
  | idle
  | receiving
  | validating
  | responding
deriving DecidableEq, Repr

/-- The faults of the bitmask, in the order of the source's list (R48). -/
inductive FaultKind where
  | shortCircuit
  | pressureSensorTimeout
  | undervoltage
  | overvoltage
  | overcurrent
  | oscillatorFailure
  | overTemperature
  | noFlowTimeout
deriving DecidableEq, Repr

/-- The waveform engine group (R21 to R31). -/
@[ext]
structure Drive where
  /-- R21. -/
  freq : Nat
  /-- R22. -/
  reqFreq : Nat
  /-- R23. -/
  rotDir : Direction
  /-- R24, the phase accumulator. -/
  acc : Nat
  /-- R25. -/
  phaseIndex : Byte
  /-- R26. -/
  modDepth : Byte
  /-- R27. -/
  running : Bool
  /-- R28. -/
  bridgeEn : Bool
  /-- R29. -/
  subDiv : Nat
  /-- R30. -/
  tick : Nat
  /-- R31, the three PWM compare registers. -/
  cmp : File3 Nat
deriving DecidableEq, Repr

/-- The pressure-period detector group (R32 to R38). -/
@[ext]
structure Pressure where
  /-- R32. -/
  ovfCount : Half
  /-- R33. -/
  lastCaptureTime : Word
  /-- R34. -/
  rawDelta : Word
  /-- R35. -/
  pending : Bool
  /-- R36. -/
  ring : File3 Word
  /-- R36, the slot the next accepted sample overwrites. -/
  ringIdx : Fin 3
  /-- R37. -/
  filtered : Word
  /-- R38. -/
  lastSampleAge : Nat
deriving DecidableEq, Repr

/-- The serial group (R39 to R47). -/
@[ext]
structure Serial where
  /-- R39. -/
  fState : FrameState
  /-- R40. -/
  lineIdle : Bool
  /-- R41. -/
  rxCount : BitVec 4
  /-- R42. -/
  ignore : Bool
  /-- R43. -/
  frmAddr : Byte
  frmFunc : Byte
  /-- R44. -/
  startReg : Half
  regCount : Half
  /-- R45. -/
  runningCrc : Half
  rxCrc : Half
  /-- R46. -/
  cursor : Byte
  regLatch : Half
  /-- R47. -/
  stationAddr : Byte
deriving DecidableEq, Repr

/-- The whole state: the 33 variables of R49 in their groups, and three fields of the model's own
(log 1, 7, 15): the configuration, the operations the environment has issued and the block has not run yet,
and the bytes emitted so far. -/
@[ext]
structure State where
  /-- R7; no operation writes it. -/
  cfg : Config
  drive : Drive
  press : Pressure
  ser : Serial
  /-- R48. -/
  fault : Byte
  /-- The operations to come, in their total order (R69). -/
  inputs : List Input
  /-- The TX byte stream (R60), newest byte first. -/
  tx : List Byte
deriving DecidableEq, Repr

/-- The block has no faults: "no operation of it can fault" (60_exceptions, R246). -/
inductive Fault where
deriving DecidableEq, Repr

/-- The refusals. All are safe: the run stops where the spec says that nothing happens. -/
inductive Refusal where
  /-- Raised by an arm of `exec` for an instruction without a meaning; no arm is one. Safe. -/
  | notModelled (mnemonic : String)
  /-- Raised by `step` for a reserved event word: "the state is unchanged and the refusal is recorded"
  (R110). Safe. -/
  | reservedWord (why : Reserved) (w : Word)
  /-- Raised by PWM_MATCH with p = 3 (R137, R110), which no decoded word reaches. Safe. -/
  | reservedPhase
  /-- Raised by `step` under a configuration that breaks R139's constraint (or log 8's): "a model refuses a
  configuration that is not". Safe. -/
  | invalidConfiguration
deriving DecidableEq, Repr

/-- R260, the waveform group. -/
def Drive.resetFor (c : Config) : Drive where
  freq := 0
  reqFreq := 0
  rotDir := .forward
  acc := 0
  phaseIndex := 0
  modDepth := 0
  running := false
  bridgeEn := false
  subDiv := 0
  tick := 0
  cmp := ⟨c.halfScale, c.halfScale, c.halfScale⟩

/-- R260, the pressure group. -/
def Pressure.initial : Pressure where
  ovfCount := 0
  lastCaptureTime := 0
  rawDelta := 0
  pending := false
  ring := ⟨0, 0, 0⟩
  ringIdx := 0
  filtered := 0
  lastSampleAge := 0

/-- R260, the serial group. -/
def Serial.resetFor (c : Config) : Serial where
  fState := .idle
  lineIdle := false
  rxCount := 0
  ignore := false
  frmAddr := 0
  frmFunc := 0
  startReg := 0
  regCount := 0
  runningCrc := 0xFFFF
  rxCrc := 0
  cursor := 0
  regLatch := 0
  stationAddr := c.addrDefault

/-- The state RESET leaves under the configuration `c` (R260), with nothing issued and nothing emitted. -/
def State.resetFor (c : Config) : State where
  cfg := c
  drive := Drive.resetFor c
  press := Pressure.initial
  ser := Serial.resetFor c
  fault := 0
  inputs := []
  tx := []

/-- The machine right after reset, at the reference configuration (R260, R261; log 7). -/
def State.reset : State := State.resetFor Config.reference

/-- Replace one group. -/
def State.withDrive (s : State) (d : Drive) : State := { s with drive := d }
def State.withPress (s : State) (p : Pressure) : State := { s with press := p }
def State.withSer (s : State) (f : Serial) : State := { s with ser := f }
def State.withFault (s : State) (m : Byte) : State := { s with fault := m }
def State.withInputs (s : State) (is : List Input) : State := { s with inputs := is }
def State.withTx (s : State) (bs : List Byte) : State := { s with tx := bs }

end Sys2Proof.Machine
end

