-- ==== Sys2Proof/Machine/Operands.lean ====
section
/-! DEFINITION. Operand forms (30_encoding R93 to R99), data formats (R102 to R106) and the byte order of
multi-byte fields (20_memory R64, R65). -/

namespace Sys2Proof.Machine

/-- The phase number of PWM_MATCH (R93): 0 U, 1 V, 2 W; 3 is reserved. -/
def phaseOf (p : BitVec 2) : Option (Fin 3) :=
  if p = 0#2 then some 0 else if p = 1#2 then some 1 else if p = 2#2 then some 2 else none

/-- The direction operand (R95, D12). -/
def directionOf (d : BitVec 1) : Direction :=
  if d = 1#1 then .reverse else .forward

/-- The overflow flag operand (R96). -/
def flagOf (b : BitVec 1) : Bool := b = 1#1

/-- Bits 15:8 and 7:0 of a 16-bit field. -/
def hiByte (v : Half) : Byte := v.extractLsb' 8 8
def loByte (v : Half) : Byte := v.extractLsb' 0 8

/-- `v[15:8] <- b` and `v[7:0] <- b` (R186). -/
def setHi (v : Half) (b : Byte) : Half := b ++ loByte v
def setLo (v : Half) (b : Byte) : Half := hiByte v ++ b

/-- The capture timestamp `hi : c` (R65, R104). -/
def timestamp (hi c : Half) : Word := hi ++ c

/-- The code of a frame state (R106). -/
def FrameState.code : FrameState → BitVec 2
  | .idle => 0
  | .receiving => 1
  | .validating => 2
  | .responding => 3

/-- The code of a direction (R106). -/
def Direction.code : Direction → BitVec 1
  | .forward => 0
  | .reverse => 1

/-- Frequency units to hertz: 256 units = 62.5 Hz (R8, R102). -/
def hertz (units : Nat) : Rat := units * (625 / 10) / 256

end Sys2Proof.Machine
end

