-- ==== Sys2Proof/Machine/Flags.lean ====
section
/-! DEFINITION. The one-bit variables (10_state R49): the fault bitmask's bits (R48, R107) and the condition
tests on the other flags. There are no condition codes. -/

namespace Sys2Proof.Machine

/-- The bit position of a fault, FAULT_BIT (R7, D42; R107 at the reference configuration). -/
def FaultKind.bit (b : FaultBits) : FaultKind → Fin 8
  | .shortCircuit => b.shortCircuit
  | .pressureSensorTimeout => b.pressureSensorTimeout
  | .undervoltage => b.undervoltage
  | .overvoltage => b.overvoltage
  | .overcurrent => b.overcurrent
  | .oscillatorFailure => b.oscillatorFailure
  | .overTemperature => b.overTemperature
  | .noFlowTimeout => b.noFlowTimeout

/-- Whether a fault's bit is set. -/
def faultSet (b : FaultBits) (m : Byte) (k : FaultKind) : Bool := m.getLsbD (k.bit b)

/-- `fault[k] <- 1`. -/
def setFault (b : FaultBits) (m : Byte) (k : FaultKind) : Byte := m ||| (1#8 <<< (k.bit b).val)

/-- `fault[k] <- 0`. -/
def clearFault (b : FaultBits) (m : Byte) (k : FaultKind) : Byte := m &&& ~~~(1#8 <<< (k.bit b).val)

/-- `fault[k] <- v`. -/
def writeFault (b : FaultBits) (m : Byte) (k : FaultKind) (v : Bool) : Byte :=
  if v then setFault b m k else clearFault b m k

/-- The environment's write of its seven bits (R48, R239): `mask` but for the short-circuit bit, which is the
block's and stays. -/
def mergeEnvFaults (b : FaultBits) (m mask : Byte) : Byte :=
  writeFault b mask .shortCircuit (faultSet b m .shortCircuit)

/-- DRV_START's flags (R141): `running`, `bridgeEn` set. -/
def Drive.enabled (d : Drive) : Drive := { d with running := true, bridgeEn := true }

/-- DRV_STOP's flags (R142): `running`, `bridgeEn` cleared. -/
def Drive.disabled (d : Drive) : Drive := { d with running := false, bridgeEn := false }

/-- The trap's flag (R236): `bridgeEn` cleared, `running` kept. -/
def Drive.bridgeOff (d : Drive) : Drive := { d with bridgeEn := false }

end Sys2Proof.Machine
end

