-- ==== Sys2Proof/Machine/Ops.lean ====
section
/-! DEFINITION. The named operations the meanings share: truncation at a write, register files, the
configuration check, the transmitter, taking the short-circuit trap, and the environment's inputs. The
block has no byte-addressed memory (20_memory R60): its stores are the files `cmp` and `ring` and two
constant tables (Table.lean, Crc.lean). -/

namespace Sys2Proof.Machine

/-- A write into a variable of width `w` truncates (R10). -/
def fit (w n : Nat) : Nat := n % 2 ^ w

/-- Read and write one register of a file of three (R11). -/
def File3.get {α : Type} (f : File3 α) (i : Fin 3) : α :=
  match i with
  | 0 => f.r0
  | 1 => f.r1
  | 2 => f.r2

def File3.set {α : Type} (f : File3 α) (i : Fin 3) (v : α) : File3 α :=
  match i with
  | 0 => { f with r0 := v }
  | 1 => { f with r1 := v }
  | 2 => { f with r2 := v }

/-- The accumulator's modulus M = 256 · 2^ACC_SHIFT (R24, R133). -/
def accModulus (c : Config) : Nat := 256 * 2 ^ c.accShift

/-- Q = 127 · 251, the largest magnitude of a product (R139). -/
def maxProduct : Nat := tableAmp * modMax

/-- The lowest and highest value a compare register can take (R139): HALF_SCALE − ceil(Q / 2^MOD_SHIFT)
and HALF_SCALE + floor(Q / 2^MOD_SHIFT). -/
def cmpLow (c : Config) : Nat := c.halfScale - (maxProduct + 2 ^ c.modShift - 1) / 2 ^ c.modShift
def cmpHigh (c : Config) : Nat := c.halfScale + maxProduct / 2 ^ c.modShift

/-- R139's validity: the interval lies in 0 .. 2^CMP_W − 1. RAMP_DIV ≥ 1 is DEDUCED from the range
0 .. RAMP_DIV − 1 of `subDiv` (R29; log 8), and distinct fault positions from the mask of eight bits over
eight faults (R48; log 17). -/
def configValid (c : Config) : Bool :=
  decide (1 ≤ c.rampDiv) &&
  decide ((maxProduct + 2 ^ c.modShift - 1) / 2 ^ c.modShift ≤ c.halfScale) &&
  decide (cmpHigh c < 2 ^ c.cmpW) &&
  decide c.faultBit.positions.Nodup

/-- `emit(b)`: one byte on the serial transmitter (R11). -/
def emit (b : Byte) (s : State) : State := s.withTx (b :: s.tx)

/-- TAKING THE TRAP (R235, R236): `bridgeEn <- 0`, `fault[0] <- 1`, inline and "not via the regular stop
path". Nothing is saved, no mode changes and there is no handler address (R233); nothing returns from
it, and only RESET clears the latch (R237). -/
def takeTrap (s : State) : State :=
  (s.withDrive s.drive.bridgeOff).withFault (setFault s.cfg.faultBit s.fault .shortCircuit)

/-- The environment's fault logic writes its seven bits (R48, R240). -/
def envWriteFaults (mask : Byte) (s : State) : State :=
  s.withFault (mergeEnvFaults s.cfg.faultBit s.fault mask)

/-- No operation is issued: nothing happens (log 2). -/
def idleStep (s : State) : State := s

/-- The environment issues an object, before those already waiting. -/
def issue (i : Input) (s : State) : State := s.withInputs (i :: s.inputs)

end Sys2Proof.Machine
end

