-- ==== Sys2Proof/Machine/Detector.lean ====
section
/-! DEFINITION. The pressure-period detector (42_pressure_period): TMR_OVF, CAP_EDGE, PS_CONSUME, PS_RESET. -/

namespace Sys2Proof.Machine

/-- TMR_OVF (R161): `ovfCount` + 1 modulo 2^16. -/
def execTmrOvf (s : State) : Host.Outcome State Fault Refusal :=
  .next (s.withPress { s.press with ovfCount := s.press.ovfCount + 1 })

/-- Recon(k, c, ovf) (R162): one counter period more when the overflow flag is up and the counter is low
(D20, D21). -/
def recon (cfg : Config) (k c : Half) (ovf : Bool) : Word :=
  timestamp (if ovf && decide (c.toNat < cfg.capLow) then k + 1 else k) c

/-- The capture (R163): the delta is modular (R164), `pending` is set whatever it was (R166). -/
def captureStep (cfg : Config) (c : Half) (ovf : Bool) (p : Pressure) : Pressure :=
  { p with
    rawDelta := recon cfg p.ovfCount c ovf - p.lastCaptureTime
    lastCaptureTime := recon cfg p.ovfCount c ovf
    pending := true }

/-- CAP_EDGE c, ovf (R163). -/
def execCapEdge (c : Half) (ovf : BitVec 1) (s : State) : Host.Outcome State Fault Refusal :=
  .next (s.withPress (captureStep s.cfg c (flagOf ovf) s.press))

/-- Plausibility (R169): both ends accepted. -/
def plausible (cfg : Config) (d : Word) : Bool :=
  decide (cfg.periodMin ≤ d.toNat) && decide (d.toNat ≤ cfg.periodMax)

/-- Median3 (R171): the lowest slot whose value lies between the other two; unsigned. -/
def median3 (a b c : Word) : Word :=
  if (b ≤ a ∧ a ≤ c) ∨ (c ≤ a ∧ a ≤ b) then a
  else if (a ≤ b ∧ b ≤ c) ∨ (c ≤ b ∧ b ≤ a) then b
  else c

/-- The median of the three slots. -/
def ringMedian (r : File3 Word) : Word := median3 r.r0 r.r1 r.r2

/-- An accepted sample (R168, R170): pushed, the index advanced modulo 3, the median and the tick
recorded. -/
def acceptSample (tick : Nat) (p : Pressure) : Pressure :=
  { p with
    ring := p.ring.set p.ringIdx p.rawDelta
    ringIdx := p.ringIdx + 1
    filtered := ringMedian (p.ring.set p.ringIdx p.rawDelta)
    lastSampleAge := tick }

/-- The consumption of a pending sample (R168): a discarded one only clears `pending` (R169). -/
def consumeStep (cfg : Config) (tick : Nat) (p : Pressure) : Pressure :=
  if p.pending then
    if plausible cfg p.rawDelta then acceptSample tick { p with pending := false }
    else { p with pending := false }
  else p

/-- PS_CONSUME (R168). -/
def execPsConsume (s : State) : Host.Outcome State Fault Refusal :=
  .next (s.withPress (consumeStep s.cfg s.drive.tick s.press))

/-- PS_RESET (R172): the working set to its reset values, `ovfCount` kept (D27). -/
def execPsReset (s : State) : Host.Outcome State Fault Refusal :=
  .next (s.withPress { Pressure.initial with ovfCount := s.press.ovfCount })

end Sys2Proof.Machine
end

