-- ==== Sys2Proof/Machine/Receiver.lean ====
section
/-! DEFINITION. The frame synchroniser and receiver (43_serial R184 to R188), the station address (R200), and
the whole request frame READ_HOLDING (30_encoding R100, R108). -/

namespace Sys2Proof.Machine

/-- Silence on the line (R185): `lineIdle` set, a partial frame abandoned. -/
def silenceStep (f : Serial) : Serial :=
  { f with
    lineIdle := true
    fState := if f.fState = .receiving then .idle else f.fState }

/-- RX_SILENCE (R185). -/
def execRxSilence (s : State) : Host.Outcome State Fault Refusal :=
  .next (s.withSer (silenceStep s.ser))

/-- A frame start (R186): the first byte after a silence. -/
def startFrame (f : Serial) : Serial :=
  { f with fState := .receiving, runningCrc := crcInit, ignore := false, rxCount := 0 }

/-- The field byte `n` of a request goes into (R186, R187). -/
def storeByte (n : Nat) (b : Byte) (f : Serial) : Serial :=
  match n with
  | 0 => { f with frmAddr := b, ignore := f.ignore || b != f.stationAddr }
  | 1 => { f with frmFunc := b, ignore := f.ignore || b != fcRead }
  | 2 => { f with startReg := setHi f.startReg b }
  | 3 => { f with startReg := setLo f.startReg b }
  | 4 => { f with regCount := setHi f.regCount b }
  | 5 => { f with regCount := setLo f.regCount b }
  | 6 => { f with rxCrc := setLo f.rxCrc b }
  | 7 => { f with rxCrc := setHi f.rxCrc b }
  | _ => f

/-- A byte of the current frame (R186): stored, accumulated if it is one of bytes 0 to 5, counted; the
eighth ends the frame. -/
def frameByteStep (b : Byte) (f : Serial) : Serial :=
  { storeByte f.rxCount.toNat b f with
    runningCrc := if f.rxCount.toNat ≤ 5 then crcUpdate f.runningCrc b else f.runningCrc
    rxCount := f.rxCount + 1
    fState := if f.rxCount.toNat = 7 then .validating else f.fState }

/-- One received byte (R186). A byte of no frame changes only `lineIdle` (R188). -/
def rxStep (b : Byte) (f : Serial) : Serial :=
  match f.fState with
  | .idle =>
    if f.lineIdle then frameByteStep b (startFrame { f with lineIdle := false })
    else { f with lineIdle := false }
  | .receiving => frameByteStep b { f with lineIdle := false }
  | .validating => { f with lineIdle := false }
  | .responding => { f with lineIdle := false }

/-- RX_BYTE b (R186). -/
def execRxByte (b : Byte) (s : State) : Host.Outcome State Fault Refusal :=
  .next (s.withSer (rxStep b s.ser))

/-- A whole frame on the line: silence, then its bytes in arrival order (R108, RX_FRAME). -/
def receiveFrame (bs : List Byte) (f : Serial) : Serial :=
  bs.foldl (fun g b => rxStep b g) (silenceStep f)

/-- A frame that is not READ_HOLDING's is received like any other and dropped by the rules (R109). -/
def foreignFrame (f : FrameBits) (s : State) : State :=
  s.withSer (receiveFrame (frameBytes f) s.ser)

/-- READ_HOLDING a, s, n with CRC bytes l, h (R100, R108): the reception of its eight bytes. The answer is
given by the SER_POLL operations that follow (R192). -/
def execReadHolding (a : Byte) (r n : Half) (l h : Byte) (s : State) : Host.Outcome State Fault Refusal :=
  .next (s.withSer (receiveFrame [a, fcRead, hiByte r, loByte r, hiByte n, loByte n, l, h] s.ser))

/-- CFG_ADDR a (R200). -/
def execCfgAddr (a : Byte) (s : State) : Host.Outcome State Fault Refusal :=
  .next (s.withSer { s.ser with stationAddr := a })

end Sys2Proof.Machine
end

