-- ==== Sys2Proof/Machine/Responder.lean ====
section
/-! DEFINITION. Validation and response (43_serial R190 to R199): SER_POLL and TX_GUARD, and the response frame
(30_encoding R101). -/

namespace Sys2Proof.Machine

/-- L = 3 + 2·regCount + 2 (R190). -/
def responseLength (f : Serial) : Nat := 3 + 2 * f.regCount.toNat + 2

/-- The validation condition (R191). -/
def frameAccepted (f : Serial) : Bool :=
  !f.ignore && f.runningCrc == f.rxCrc && decide (f.regCount.toNat ≤ maxRegs)

/-- Validate (R193): no byte is emitted; the CRC accumulator starts again for the response (D37). -/
def validateStep (f : Serial) : Serial :=
  if frameAccepted f then { f with fState := .responding, cursor := 0, runningCrc := crcInit }
  else { f with fState := .idle }

/-- Tel(r, t) (R196): the draw if the address is defined, else 0. -/
def telemetry (c : Config) (r t : Half) : Half :=
  if c.telemetryDefined.contains r then t else 0

/-- The address of the j-th register, modulo 2^16 (R63, R195). -/
def registerAddress (f : Serial) (j : Nat) : Half := f.startReg + BitVec.ofNat 16 j

/-- Whether byte `k` of the response is the high byte of a register (R195). -/
def isHighByte (f : Serial) (k : Nat) : Bool :=
  decide (3 ≤ k) && decide (k < 3 + 2 * f.regCount.toNat) && (k - 3) % 2 == 0

/-- The register sampled when its high byte is emitted (R195, D38). -/
def latchStep (c : Config) (t : Half) (f : Serial) : Serial :=
  if isHighByte f f.cursor.toNat then
    { f with regLatch := telemetry c (registerAddress f ((f.cursor.toNat - 3) / 2)) t }
  else f

/-- Byte `k` of the response (R194, R195, R197), the register already latched. -/
def responseByte (f : Serial) (k : Nat) : Byte :=
  if k = 0 then f.frmAddr
  else if k = 1 then f.frmFunc
  else if k = 2 then BitVec.ofNat 8 (2 * f.regCount.toNat)
  else if k < 3 + 2 * f.regCount.toNat then
    if (k - 3) % 2 = 0 then hiByte f.regLatch else loByte f.regLatch
  else if k = 3 + 2 * f.regCount.toNat then loByte f.runningCrc
  else hiByte f.runningCrc

/-- The cursor and the CRC after a byte is emitted: the trailer is not accumulated (R194 to R197). -/
def emittedStep (b : Byte) (f : Serial) : Serial :=
  { f with
    runningCrc := if f.cursor.toNat < 3 + 2 * f.regCount.toNat then crcUpdate f.runningCrc b
                  else f.runningCrc
    cursor := f.cursor + 1 }

/-- EmitNext(t) (R194 to R197): one byte on the transmitter. -/
def emitNext (t : Half) (s : State) : State :=
  let f := latchStep s.cfg t s.ser
  let b := responseByte f f.cursor.toNat
  emit b (s.withSer (emittedStep b f))

/-- SER_POLL t (R192): at most one byte. -/
def execSerPoll (t : Half) (s : State) : Host.Outcome State Fault Refusal :=
  match s.ser.fState with
  | .validating => .next (s.withSer (validateStep s.ser))
  | .responding => .next (if s.ser.cursor.toNat < responseLength s.ser then emitNext t s else s)
  | .idle => .next s
  | .receiving => .next s

/-- The end of the guard interval (R198). -/
def guardStep (f : Serial) : Serial :=
  if f.fState = .responding ∧ f.cursor.toNat = responseLength f then
    { f with fState := .idle, lineIdle := true }
  else f

/-- TX_GUARD (R198). -/
def execTxGuard (s : State) : Host.Outcome State Fault Refusal :=
  .next (s.withSer (guardStep s.ser))

/-- The bytes of a response before its trailer (R101): address, function, byte count, then each register
value high byte first. -/
def responsePayload (addr func : Byte) (vals : List Half) : List Byte :=
  [addr, func, BitVec.ofNat 8 (2 * vals.length)] ++ vals.flatMap (fun v => [hiByte v, loByte v])

/-- The response frame (R101). -/
def responseFrame (addr func : Byte) (vals : List Half) : List Byte :=
  let p := responsePayload addr func vals
  p ++ [loByte (crc16 p), hiByte (crc16 p)]

/-- The bytes of a request frame (R100) with its own CRC (R108). -/
def requestFrame (addr : Byte) (start count : Half) : List Byte :=
  let p := [addr, fcRead, hiByte start, loByte start, hiByte count, loByte count]
  p ++ [loByte (crc16 p), hiByte (crc16 p)]

end Sys2Proof.Machine
end

