-- ==== Sys2Proof/Machine/System.lean ====
section
/-! DEFINITION. RESET (70_reset R260) and SC_TRAP (60_exceptions R236). -/

namespace Sys2Proof.Machine

/-- RESET (R260): every variable of 10_state to its reset value. The configuration, the operations still to
come and the bytes already sent are not such variables and stay (log 14). -/
def execReset (s : State) : Host.Outcome State Fault Refusal :=
  .next (((State.resetFor s.cfg).withInputs s.inputs).withTx s.tx)

/-- SC_TRAP (R236). -/
def execScTrap (s : State) : Host.Outcome State Fault Refusal :=
  .next (takeTrap s)

end Sys2Proof.Machine
end

