-- ==== Sys2Proof/Machine/Table.lean ====
section
/-! DEFINITION. The waveform ROM TABLE (20_memory R61): its contents as 40_table_generator R124 lists them, the
read of one entry, and the build-time generator of R121 to R123 in exact integer arithmetic (log 11). -/

namespace Sys2Proof.Machine

/-- TABLE[0], phase U, rows of sixteen entries (R124). -/
def tableU : List (List Int) :=
  [[0, 5, 11, 16, 22, 27, 32, 38, 43, 48, 53, 59, 64, 69, 74, 79],
   [84, 89, 94, 99, 104, 108, 111, 112, 114, 115, 117, 118, 119, 120, 121, 122],
   [123, 123, 124, 125, 125, 126, 126, 126, 127, 127, 127, 127, 127, 127, 127, 126],
   [126, 125, 125, 124, 124, 123, 122, 121, 120, 119, 118, 117, 116, 114, 113, 112]] ++
  [[110, 112, 113, 114, 116, 117, 118, 119, 120, 121, 122, 123, 124, 124, 125, 125],
   [126, 126, 127, 127, 127, 127, 127, 127, 127, 126, 126, 126, 125, 125, 124, 123],
   [123, 122, 121, 120, 119, 118, 117, 115, 114, 112, 111, 108, 104, 99, 94, 89],
   [84, 79, 74, 69, 64, 59, 53, 48, 43, 38, 32, 27, 22, 16, 11, 5]] ++
  [[0, -5, -11, -16, -22, -27, -32, -38, -43, -48, -53, -59, -64, -69, -74, -79],
   [-84, -89, -94, -99, -104, -108, -111, -112, -114, -115, -117, -118, -119, -120, -121, -122],
   [-123, -123, -124, -125, -125, -126, -126, -126, -127, -127, -127, -127, -127, -127, -127, -126],
   [-126, -125, -125, -124, -124, -123, -122, -121, -120, -119, -118, -117, -116, -114, -113, -112]] ++
  [[-110, -112, -113, -114, -116, -117, -118, -119, -120, -121, -122, -123, -124, -124, -125, -125],
   [-126, -126, -127, -127, -127, -127, -127, -127, -127, -126, -126, -126, -125, -125, -124, -123],
   [-123, -122, -121, -120, -119, -118, -117, -115, -114, -112, -111, -108, -104, -99, -94, -89],
   [-84, -79, -74, -69, -64, -59, -53, -48, -43, -38, -32, -27, -22, -16, -11, -5]]

/-- TABLE[1], phase V, rows of sixteen entries (R124). -/
def tableV : List (List Int) :=
  [[127, 127, 127, 127, 126, 126, 126, 125, 125, 124, 123, 122, 122, 121, 120, 118],
   [117, 116, 115, 113, 112, 111, 107, 102, 97, 92, 87, 83, 77, 72, 67, 62],
   [57, 52, 46, 41, 36, 30, 25, 20, 14, 9, 4, -2, -7, -13, -18, -23],
   [-29, -34, -39, -45, -50, -55, -60, -66, -71, -76, -81, -86, -91, -96, -101, -105]] ++
  [[-110, -112, -113, -114, -116, -117, -118, -119, -120, -121, -122, -123, -124, -124, -125, -125],
   [-126, -126, -127, -127, -127, -127, -127, -127, -127, -126, -126, -126, -125, -125, -124, -123],
   [-123, -122, -121, -120, -119, -118, -117, -115, -114, -112, -111, -111, -112, -113, -115, -116],
   [-117, -118, -120, -121, -122, -122, -123, -124, -125, -125, -126, -126, -126, -127, -127, -127]] ++
  [[-127, -127, -127, -127, -126, -126, -126, -125, -125, -124, -123, -122, -122, -121, -120, -118],
   [-117, -116, -115, -113, -112, -111, -107, -102, -97, -92, -87, -83, -77, -72, -67, -62],
   [-57, -52, -46, -41, -36, -30, -25, -20, -14, -9, -4, 2, 7, 13, 18, 23],
   [29, 34, 39, 45, 50, 55, 60, 66, 71, 76, 81, 86, 91, 96, 101, 105]] ++
  [[110, 112, 113, 114, 116, 117, 118, 119, 120, 121, 122, 123, 124, 124, 125, 125],
   [126, 126, 127, 127, 127, 127, 127, 127, 127, 126, 126, 126, 125, 125, 124, 123],
   [123, 122, 121, 120, 119, 118, 117, 115, 114, 112, 111, 111, 112, 113, 115, 116],
   [117, 118, 120, 121, 122, 122, 123, 124, 125, 125, 126, 126, 126, 127, 127, 127]]

/-- TABLE[2], phase W, rows of sixteen entries (R124). -/
def tableW : List (List Int) :=
  [[-127, -127, -127, -127, -126, -126, -126, -125, -125, -124, -123, -122, -122, -121, -120, -118],
   [-117, -116, -115, -113, -112, -111, -111, -112, -114, -115, -117, -118, -119, -120, -121, -122],
   [-123, -123, -124, -125, -125, -126, -126, -126, -127, -127, -127, -127, -127, -127, -127, -126],
   [-126, -125, -125, -124, -124, -123, -122, -121, -120, -119, -118, -117, -116, -114, -113, -112]] ++
  [[-110, -105, -101, -96, -91, -86, -81, -76, -71, -66, -60, -55, -50, -45, -39, -34],
   [-29, -23, -18, -13, -7, -2, 4, 9, 14, 20, 25, 30, 36, 41, 46, 52],
   [57, 62, 67, 72, 77, 83, 87, 92, 97, 102, 107, 111, 112, 113, 115, 116],
   [117, 118, 120, 121, 122, 122, 123, 124, 125, 125, 126, 126, 126, 127, 127, 127]] ++
  [[127, 127, 127, 127, 126, 126, 126, 125, 125, 124, 123, 122, 122, 121, 120, 118],
   [117, 116, 115, 113, 112, 111, 111, 112, 114, 115, 117, 118, 119, 120, 121, 122],
   [123, 123, 124, 125, 125, 126, 126, 126, 127, 127, 127, 127, 127, 127, 127, 126],
   [126, 125, 125, 124, 124, 123, 122, 121, 120, 119, 118, 117, 116, 114, 113, 112]] ++
  [[110, 105, 101, 96, 91, 86, 81, 76, 71, 66, 60, 55, 50, 45, 39, 34],
   [29, 23, 18, 13, 7, 2, -4, -9, -14, -20, -25, -30, -36, -41, -46, -52],
   [-57, -62, -67, -72, -77, -83, -87, -92, -97, -102, -107, -111, -112, -113, -115, -116],
   [-117, -118, -120, -121, -122, -122, -123, -124, -125, -125, -126, -126, -126, -127, -127, -127]]

/-- The three arrays, one per phase (R120). -/
def waveTable (p : Fin 3) : List (List Int) :=
  match p with
  | 0 => tableU
  | 1 => tableV
  | 2 => tableW

/-- `TABLE[p][i]`, a signed entry in −127 .. 127 (R11, R103). -/
def tableRead (p : Fin 3) (i : Byte) : Int :=
  ((waveTable p).getD (i.toNat / 16) []).getD (i.toNat % 16) 0

/-- The byte an entry is stored as, two's complement (R61, R103). -/
def tableByte (p : Fin 3) (i : Byte) : Byte := BitVec.ofInt 8 (tableRead p i)

/-- The generator's fixed-point scale: a real x is held as x · 10^15. -/
def genScale : Int := 1000000000000000

/-- 2π / 768 on that scale: one step of a third of a table step. -/
def genAngleUnit : Int := 8181230868723

/-- 1 / √3 on that scale. -/
def genInvSqrt3 : Int := 577350269189626

/-- Taylor series of the sine at `x` (scaled), `terms` more terms, the current term being `t` of odd
order `k`. -/
def genSeries (terms : Nat) (x t k acc : Int) : Int :=
  match terms with
  | 0 => acc
  | n + 1 =>
    genSeries n x (-(t * x / genScale * x / genScale) / ((k + 1) * (k + 2))) (k + 2) (acc + t)

/-- sin(2π j / 768), scaled, for `j` in the first quarter turn 0 .. 192. -/
def genSineQuarter (j : Nat) : Int :=
  let x := genAngleUnit * j
  genSeries 12 x x 1 0

/-- sin(2π j / 768), scaled, by the quarter-wave symmetries. -/
def genSine (j : Nat) : Int :=
  let m := j % 768
  if m ≤ 192 then genSineQuarter m
  else if m ≤ 384 then genSineQuarter (384 - m)
  else if m ≤ 576 then -genSineQuarter (m - 384)
  else -genSineQuarter (768 - m)

/-- The sine of phase `p` at step `i`: θ = 2π i / 256 plus p thirds of a turn (R121, D4). -/
def genPhaseSine (p : Fin 3) (i : Nat) : Int := genSine (3 * i + 256 * p.val)

/-- The one of three values whose absolute value is smallest (R121). -/
def smallestAbs (a b c : Int) : Int :=
  if a.natAbs ≤ b.natAbs ∧ a.natAbs ≤ c.natAbs then a
  else if b.natAbs ≤ c.natAbs then b else c

/-- Round x / d to the nearest integer, ties away from zero (R123, D5), for d > 0. -/
def roundNearest (x d : Int) : Int :=
  if 0 ≤ x then (2 * x + d) / (2 * d) else -((2 * -x + d) / (2 * d))

/-- round((s_p + m / 2) · (2 / √3) · 127) with the injected `m` given (R121). -/
def genEntryWith (p : Fin 3) (i : Nat) (m : Int) : Int :=
  roundNearest ((2 * genPhaseSine p i + m) * 127 * genInvSqrt3) (genScale * genScale)

/-- The generator of R121: `m` is the sine of smallest absolute value. -/
def genEntry (p : Fin 3) (i : Nat) : Int :=
  genEntryWith p i (smallestAbs (genPhaseSine 0 i) (genPhaseSine 1 i) (genPhaseSine 2 i))

/-- The generator in min-max form (R122): `m` = −(max + min). -/
def genEntryMinMax (p : Fin 3) (i : Nat) : Int :=
  let a := genPhaseSine 0 i
  let b := genPhaseSine 1 i
  let c := genPhaseSine 2 i
  genEntryWith p i (-(max a (max b c) + min a (min b c)))

end Sys2Proof.Machine
end

