-- ==== Sys2Proof/Machine/Waveform.lean ====
section
/-! DEFINITION. The SVPWM waveform engine (41_waveform_engine): PWM_CARRIER, PWM_MATCH, DRV_START, DRV_STOP,
DRV_SETREQ, DRV_SETDIR. -/

namespace Sys2Proof.Machine

/-- One unit from `f` toward `r` (R132). -/
def toward (f r : Nat) : Nat :=
  if f < r then f + 1 else if r < f then f - 1 else f

/-- The ramp and tick step of the invocation that completes the divider (R132). -/
def rampStep (c : Config) (d : Drive) : Drive :=
  { d with
    subDiv := 0
    tick := fit c.tickW (d.tick + 1)
    freq := fit c.freqW (toward d.freq d.reqFreq) }

/-- The divider (R131, R132, D7): incremented first, the ramp step when it reaches RAMP_DIV. -/
def dividerStep (c : Config) (d : Drive) : Drive :=
  if d.subDiv + 1 = c.rampDiv then rampStep c d else { d with subDiv := d.subDiv + 1 }

/-- The accumulator's advance, signed by the direction, modulo M (R133, D12). -/
def advanceAcc (c : Config) (d : Drive) : Nat :=
  match d.rotDir with
  | .forward => (d.acc + d.freq) % accModulus c
  | .reverse => (((d.acc : Int) - d.freq) % (accModulus c : Int)).toNat

/-- `(acc >> ACC_SHIFT) & 0xFF` (R25, R133). -/
def indexOf (c : Config) (acc : Nat) : Byte := BitVec.ofNat 8 (acc >>> c.accShift)

/-- The accumulator and index step (R133). -/
def angleStep (c : Config) (d : Drive) : Drive :=
  { d with acc := advanceAcc c d, phaseIndex := indexOf c (advanceAcc c d) }

/-- min(251, (freq · VF_GAIN) >> VF_SHIFT), the product exact (R134, D11). -/
def depthOf (c : Config) (freq : Nat) : Byte :=
  BitVec.ofNat 8 (min modMax ((freq * c.vfGain) >>> c.vfShift))

/-- The modulation-depth step (R134). -/
def depthStep (c : Config) (d : Drive) : Drive :=
  { d with modDepth := depthOf c d.freq }

/-- The three steps in the source's order (R131, D13); neither `running` nor `bridgeEn` is read (D14). -/
def carrierStep (c : Config) (d : Drive) : Drive :=
  depthStep c (angleStep c (dividerStep c d))

/-- PWM_CARRIER (R131). -/
def execPwmCarrier (s : State) : Host.Outcome State Fault Refusal :=
  .next (s.withDrive (carrierStep s.cfg s.drive))

/-- `x >> n` on a signed product: floor (R10, R138, D10), or toward zero in the variant of 93 U1. -/
def shiftProduct (m : ProductShift) (x : Int) (n : Nat) : Int :=
  match m with
  | .floor => x / 2 ^ n
  | .towardZero => x.tdiv (2 ^ n)

/-- (TABLE[p][i] · m >>a MOD_SHIFT) + HALF_SCALE (R137), written into a CMP_W-bit register (R10). -/
def compareValue (c : Config) (p : Fin 3) (i m : Byte) : Nat :=
  ((shiftProduct c.productShift (tableRead p i * (m.toNat : Int)) c.modShift + (c.halfScale : Int)) %
    (2 ^ c.cmpW : Int)).toNat

/-- The compare-match service of phase `p`: `cmp[p]` and nothing else (R137, R140). -/
def matchStep (c : Config) (p : Fin 3) (d : Drive) : Drive :=
  { d with cmp := d.cmp.set p (compareValue c p d.phaseIndex d.modDepth) }

/-- PWM_MATCH p (R137); p = 3 is refused (R110). -/
def execPwmMatch (p : BitVec 2) (s : State) : Host.Outcome State Fault Refusal :=
  match phaseOf p with
  | some q => .next (s.withDrive (matchStep s.cfg q s.drive))
  | none => .refused .reservedPhase

/-- The four variables a start or a stop returns to zero (R141, R142, D15). -/
def Drive.standstill (d : Drive) : Drive :=
  { d with freq := 0, modDepth := 0, acc := 0, phaseIndex := 0 }

/-- DRV_START (R141). It does not look at `fault` (R269). -/
def execDrvStart (s : State) : Host.Outcome State Fault Refusal :=
  .next (s.withDrive s.drive.standstill.enabled)

/-- DRV_STOP (R142). -/
def execDrvStop (s : State) : Host.Outcome State Fault Refusal :=
  .next (s.withDrive s.drive.disabled.standstill)

/-- DRV_SETREQ v (R143), `v` written into FREQ_W bits (R10, R22). -/
def execDrvSetreq (v : Half) (s : State) : Host.Outcome State Fault Refusal :=
  .next (s.withDrive { s.drive with reqFreq := fit s.cfg.freqW v.toNat })

/-- DRV_SETDIR d (R144). -/
def execDrvSetdir (d : BitVec 1) (s : State) : Host.Outcome State Fault Refusal :=
  .next (s.withDrive { s.drive with rotDir := directionOf d })

end Sys2Proof.Machine
end

