-- ==== Sys2Proof/Machine/Dispatch.lean ====
section
/-! DEFINITION. The dispatch: one arm per operation. -/

namespace Sys2Proof.Machine

def exec (i : Instr) (s : State) : Host.Outcome State Fault Refusal :=
  match i with
  | .pwmCarrier => Sys2Proof.Machine.execPwmCarrier s
  | .pwmMatch p => Sys2Proof.Machine.execPwmMatch p s
  | .drvStart => Sys2Proof.Machine.execDrvStart s
  | .drvStop => Sys2Proof.Machine.execDrvStop s
  | .drvSetreq v => Sys2Proof.Machine.execDrvSetreq v s
  | .drvSetdir d => Sys2Proof.Machine.execDrvSetdir d s
  | .tmrOvf => Sys2Proof.Machine.execTmrOvf s
  | .capEdge c ovf => Sys2Proof.Machine.execCapEdge c ovf s
  | .psConsume => Sys2Proof.Machine.execPsConsume s
  | .psReset => Sys2Proof.Machine.execPsReset s
  | .rxByte b => Sys2Proof.Machine.execRxByte b s
  | .rxSilence => Sys2Proof.Machine.execRxSilence s
  | .serPoll t => Sys2Proof.Machine.execSerPoll t s
  | .txGuard => Sys2Proof.Machine.execTxGuard s
  | .cfgAddr a => Sys2Proof.Machine.execCfgAddr a s
  | .reset => Sys2Proof.Machine.execReset s
  | .scTrap => Sys2Proof.Machine.execScTrap s
  | .readHolding a r n l h => Sys2Proof.Machine.execReadHolding a r n l h s

end Sys2Proof.Machine
end

