-- ==== Sys2Proof/Machine/Step.lean ====
section
/-! DEFINITION. One step: the next object of `inputs` is taken and run (00_scope R6, 20_memory R69). -/

namespace Sys2Proof.Machine

/-- Run one object at the state it was taken from. A reserved word is refused (R110); a frame that is no
READ_HOLDING is received and dropped (R109); the environment's fault bits are written (R48). -/
def stepInput (i : Input) (s : State) : Host.Outcome State Fault Refusal :=
  match i with
  | .word w =>
    match decodeWord w with
    | .ok op => exec op s
    | .error why => .refused (.reservedWord why w)
  | .frame f =>
    match decodeFrame f with
    | .ok op => exec op s
    | .error _ => .next (foreignFrame f s)
  | .envFault mask => .next (envWriteFaults mask s)

/-- One step. A configuration outside R139 is refused; with nothing issued nothing happens (log 2). -/
def step (s : State) : Host.Outcome State Fault Refusal :=
  if configValid s.cfg then
    match s.inputs with
    | [] => .next (idleStep s)
    | i :: rest => stepInput i (s.withInputs rest)
  else .refused .invalidConfiguration

/-- The instruction with the table's bits, issued as the next operation (log 1). -/
def State.withFetchWord (s : State) (nbits w : Nat) : State := issue (tableInput nbits w) s

end Sys2Proof.Machine
end

