-- ==== Sys2Proof/Machine/Contexts.lean ====
section
/-! DEFINITION. Execution contexts (60_exceptions R234), traces of operations and the pseudo-operations of
30_encoding R108. -/

namespace Sys2Proof.Machine

/-- The context an operation belongs to (R234, R6). The bytes of READ_HOLDING are received in the main
loop. -/
def contextOf : Instr → Context
  | .pwmCarrier => .interrupt
  | .pwmMatch _ => .interrupt
  | .drvStart => .mainLoop
  | .drvStop => .mainLoop
  | .drvSetreq _ => .mainLoop
  | .drvSetdir _ => .mainLoop
  | .tmrOvf => .interrupt
  | .capEdge _ _ => .interrupt
  | .psConsume => .mainLoop
  | .psReset => .mainLoop
  | .rxByte _ => .mainLoop
  | .rxSilence => .mainLoop
  | .serPoll _ => .mainLoop
  | .txGuard => .mainLoop
  | .cfgAddr _ => .mainLoop
  | .reset => .reset
  | .scTrap => .trap
  | .readHolding _ _ _ _ _ => .mainLoop

/-- The priority of an interrupt source, larger first (60_exceptions R232, D44); none for the main loop and
for reset. It says only which of two pending operations the environment issues first: no operation reads
it (log 3). -/
def interruptPriority : Instr → Option Nat
  | .scTrap => some 3
  | .pwmCarrier => some 2
  | .pwmMatch _ => some 2
  | .tmrOvf => some 1
  | .capEdge _ _ => some 1
  | _ => none

/-- The main-loop operations that run inside the critical section, with the carrier interrupt masked
(20_memory R70, 60_exceptions R231). -/
def inCriticalSection (i : Instr) : Prop :=
  i = .drvStart ∨ i = .drvStop ∨ (∃ v, i = .drvSetreq v) ∨ ∃ d, i = .drvSetdir d

/-- Run a trace of operations, stopping at the first refusal (R69, R108). -/
def runOps : List Instr → State → Host.Outcome State Fault Refusal
  | [], s => .next s
  | i :: is, s =>
    match exec i s with
    | .next t => runOps is t
    | .fault r => .fault r
    | .refused r => .refused r

/-- PWM_PERIOD (R108). -/
def pwmPeriod : List Instr := [.pwmCarrier, .pwmMatch 0, .pwmMatch 1, .pwmMatch 2]

/-- REPEAT n (R108). -/
def repeatTrace (n : Nat) (body : List Instr) : List Instr := (List.replicate n body).flatten

/-- RX_FRAME b0, ..., bk (R108). -/
def rxFrame (bs : List Byte) : List Instr := .rxSilence :: bs.map .rxByte

/-- The trace READ_HOLDING a, s, n stands for (R108). -/
def readHoldingTrace (a : Byte) (start count : Half) : List Instr := rxFrame (requestFrame a start count)

/-- CAPTURE c (R108). -/
def capture (c : Half) : List Instr := [.capEdge c 0]

/-- The objects that issue a trace. -/
def issued (is : List Instr) : List Input := is.map encode

end Sys2Proof.Machine
end

