-- ==== Sys2Proof/Machine/Environment.lean ====
section
/-! DEFINITION. The environment's documented rules as a second agent of pure functions: the debounced faults
(60_exceptions R240 to R245), the regulator (45_environment R220 to R224) and the start/stop gating (R225,
R241). They are outside the block (00_scope R4, D50): no operation of the block calls them. -/

namespace Sys2Proof.Machine

/-! ### The debounced faults -/

/-- The set-times of the seven debounced bits, `setTime[b]` (R240). The bits themselves stand in `fault`. -/
structure SetTimes where
  pressureSensorTimeout : Nat
  undervoltage : Nat
  overvoltage : Nat
  overcurrent : Nat
  oscillatorFailure : Nat
  overTemperature : Nat
  noFlowTimeout : Nat
deriving DecidableEq, Repr

/-- The stamp of a fault; the latched shape has none (R239). -/
def SetTimes.get (t : SetTimes) : FaultKind → Nat
  | .shortCircuit => 0
  | .pressureSensorTimeout => t.pressureSensorTimeout
  | .undervoltage => t.undervoltage
  | .overvoltage => t.overvoltage
  | .overcurrent => t.overcurrent
  | .oscillatorFailure => t.oscillatorFailure
  | .overTemperature => t.overTemperature
  | .noFlowTimeout => t.noFlowTimeout

/-- The seven debounced faults (R239). -/
def debouncedKinds : List FaultKind :=
  [.pressureSensorTimeout, .undervoltage, .overvoltage, .overcurrent, .oscillatorFailure,
   .overTemperature, .noFlowTimeout]

/-- What the environment reads in one pass of its main loop: conditions the source gives no threshold for
(R244), the flow switch, the run command (R243), and whether the "fixed slow tick when idle" (R220) falls in
this pass. Its period, and what "idle" is, are not in the source (91 N22): a reading, the model's choice
(log 29). -/
structure EnvReadings where
  undervoltage : Bool
  overvoltage : Bool
  overcurrent : Bool
  oscillatorFailure : Bool
  overTemperature : Bool
  noFlow : Bool
  flowSensed : Bool
  commandedToRun : Bool
  idleTick : Bool
deriving DecidableEq, Repr

/-- (now − stamp) mod 2^TICK_W (R240, R242, R274). -/
def elapsed (w now stamp : Nat) : Nat := (((now : Int) - stamp) % (2 ^ w : Int)).toNat

/-- A debounced bit of the mask with its stamp (R240). -/
structure Debounced where
  isSet : Bool
  setTime : Nat
deriving DecidableEq, Repr

/-- One evaluation of a debounced bit (R240): set and stamped while the condition holds, cleared when the
quiet window is exceeded. -/
def Debounced.eval (e : EnvConfig) (w tick : Nat) (cond : Bool) (d : Debounced) : Debounced :=
  if cond then { isSet := true, setTime := tick }
  else if d.isSet && decide (e.quiet < elapsed w tick d.setTime) then { d with isSet := false }
  else d

/-- The pressure-sensor liveness condition (R242). -/
def sensorStale (e : EnvConfig) (s : State) : Bool :=
  decide (e.tSensor < elapsed s.cfg.tickW s.drive.tick s.press.lastSampleAge)

/-- `cond[b]` of each fault (R240, R242, R244); overcurrent and no-flow are suppressed while the drive is not
commanded to run (R243), and the latched shape has no condition here (R237). -/
def condition (e : EnvConfig) (r : EnvReadings) (s : State) : FaultKind → Bool
  | .shortCircuit => false
  | .pressureSensorTimeout => sensorStale e s
  | .undervoltage => r.undervoltage
  | .overvoltage => r.overvoltage
  | .overcurrent => r.overcurrent && r.commandedToRun
  | .oscillatorFailure => r.oscillatorFailure
  | .overTemperature => r.overTemperature
  | .noFlowTimeout => r.noFlow && r.commandedToRun

/-- The evaluation of one fault: its bit as it stands in `fault`, its stamp, its condition (R240). Whether that
evaluation goes on while ignore-faults is set R245 does not say ("bypassing all of the above"): here it does, on
the stored bits, read unmasked and written back: the model's choice (log 36). -/
def evalFault (e : EnvConfig) (r : EnvReadings) (s : State) (t : SetTimes) (k : FaultKind) : Debounced :=
  Debounced.eval e s.cfg.tickW s.drive.tick (condition e r s k) ⟨faultSet s.cfg.faultBit s.fault k, t.get k⟩

/-- The stamps after one pass (R240). -/
def evalSetTimes (e : EnvConfig) (r : EnvReadings) (s : State) (t : SetTimes) : SetTimes where
  pressureSensorTimeout := (evalFault e r s t .pressureSensorTimeout).setTime
  undervoltage := (evalFault e r s t .undervoltage).setTime
  overvoltage := (evalFault e r s t .overvoltage).setTime
  overcurrent := (evalFault e r s t .overcurrent).setTime
  oscillatorFailure := (evalFault e r s t .oscillatorFailure).setTime
  overTemperature := (evalFault e r s t .overTemperature).setTime
  noFlowTimeout := (evalFault e r s t .noFlowTimeout).setTime

/-- The mask after one pass: every debounced bit as evaluated, the short-circuit bit as it stands (R239,
R240). -/
def evalMask (e : EnvConfig) (r : EnvReadings) (s : State) (t : SetTimes) : Byte :=
  debouncedKinds.foldl (fun m k => writeFault s.cfg.faultBit m k (evalFault e r s t k).isSet) s.fault

/-- The mask the fault logic acts on: the stored mask, or 0 under the ignore-faults option (R245, D51). -/
def visibleFault (e : EnvConfig) (m : Byte) : Byte := if e.ignoreFaults then 0 else m

/-! ### The regulator -/

/-- RegulatorState (R221). -/
structure Regulator where
  pressureOn : Rat
  pressureOff : Rat
  regulating : Bool
  regStartTime : Nat
  stopDelay : Nat
deriving DecidableEq, Repr

/-- The environment's own state: the stamps (R240) and the regulator (R221). -/
structure EnvState where
  setTimes : SetTimes
  regulator : Regulator
deriving DecidableEq, Repr

/-- The pressure a value of the mapping's domain stands for (R223). -/
def mapPressure (m : Transducer) (x : Rat) : Rat := m.slope * x + m.offset

/-- `actualPressure`, obtained from `filtered` (R223). -/
def actualPressure (e : EnvConfig) (p : Pressure) : Rat := mapPressure e.transducer p.filtered.toNat

/-- The environment's state before its first pass: thresholds derived from the stored parameters (R223,
R263), all else zero (R221 "zero/defaults"; the source gives no power-on value, log 33). -/
def EnvState.initial (e : EnvConfig) : EnvState where
  setTimes := ⟨0, 0, 0, 0, 0, 0, 0⟩
  regulator :=
    { pressureOn := mapPressure e.transducer e.onParameter
      pressureOff := mapPressure e.transducer e.offParameter
      regulating := false
      regStartTime := 0
      stopDelay := e.stopDelay }

/-- A parameter change whose derived value this agent or the block holds (R47, R223). -/
inductive ParameterChange where
  | stationAddress (a : Byte)
  | pressureOn (x : Rat)
  | pressureOff (x : Rat)
deriving DecidableEq, Repr

/-- "Set derived value from parameter index" (R200, R223): a threshold is recomputed through the mapping, the
station address is issued to the block. -/
def setDerivedValue (e : EnvConfig) (v : EnvState) : ParameterChange → EnvState × List Instr
  | .stationAddress a => (v, [.cfgAddr a])
  | .pressureOn x => ({ v with regulator := { v.regulator with pressureOn := mapPressure e.transducer x } }, [])
  | .pressureOff x => ({ v with regulator := { v.regulator with pressureOff := mapPressure e.transducer x } }, [])

/-- Whether the drive should run (R222): the time comparison is the plain difference R222 writes (R10). -/
def shouldRun (p : Rat) (flow : Bool) (tick : Nat) (g : Regulator) : Bool :=
  decide (p < g.pressureOn) ||
  (g.regulating && decide ((tick : Int) - g.regStartTime < g.stopDelay)) ||
  flow

/-- One invocation of the policy (R222). -/
def Regulator.invoke (p : Rat) (flow : Bool) (tick : Nat) (g : Regulator) : Regulator :=
  { g with
    regulating := shouldRun p flow tick g
    regStartTime :=
      if shouldRun p flow tick g && (!g.regulating || decide (p < g.pressureOff) || flow) then tick
      else g.regStartTime }

/-- The division by 4 of the proportional term (R222): the exact quotient where there is one, else one of the
two integers beside it, by a free choice (91 N22; log 25). -/
def quarter (x : Rat) : Int := if Config.freeRoundUp x then ⌈x / 4⌉ else ⌊x / 4⌋

/-- The proportional term's request, clamped (R222). With `minFrequency` above `maxFrequency`, where the
source gives no clamp, the result is `minFrequency`: the model's choice (log 31). -/
def clampedRequest (e : EnvConfig) (off p : Rat) : Nat :=
  (max (e.minFrequency : Int)
    (min (e.maxFrequency : Int) (e.baseFrequency + quarter (off - p)))).toNat

/-- The target of one invocation (R222), 0 when not regulating. -/
def requestOf (e : EnvConfig) (p : Rat) (g : Regulator) : Half :=
  if g.regulating then BitVec.ofNat 16 (clampedRequest e g.pressureOff p) else 0

/-- Whether a PS_CONSUME at this state accepts a sample (R168, R173). -/
def sampleAccepted (s : State) : Bool := s.press.pending && plausible s.cfg s.press.rawDelta

/-- Whether the regulator is invoked in this pass (R220): a sample was accepted, or the idle tick fell. Before
three accepted samples the source says nothing of it (R223); it is invoked like any other time, on the
`filtered` there is: the model's choice (log 29). -/
def invoked (r : EnvReadings) (s : State) : Bool := sampleAccepted s || r.idleTick

/-- The regulator after this pass's invocation, if there is one, on the pressure after PS_CONSUME. -/
def regulate (e : EnvConfig) (r : EnvReadings) (s : State) (g : Regulator) : Regulator :=
  if invoked r s then
    g.invoke (actualPressure e (consumeStep s.cfg s.drive.tick s.press)) r.flowSensed s.drive.tick
  else g

/-- The operand of this pass's DRV_SETREQ, if it issues one: 0 under any visible fault (R224, R241), the
regulator's target when it is invoked (R222). -/
def passRequest (e : EnvConfig) (r : EnvReadings) (s : State) (mask : Byte) (g : Regulator) : Option Half :=
  if mask ≠ 0 then some 0
  else if invoked r s then some (requestOf e (actualPressure e (consumeStep s.cfg s.drive.tick s.press)) g)
  else none

/-! ### Start and stop -/

/-- A transition of the drive (R225). -/
inductive Transition where
  | start
  | stop
deriving DecidableEq, Repr

/-- The operation that makes a transition. -/
def Transition.op : Transition → Instr
  | .start => .drvStart
  | .stop => .drvStop

/-- The start and stop gating (R225) with the immediate stop of any visible fault (R241). After a short-circuit
trap under the ignore-faults option the mask reads 0 and what the environment then does is not in the source
(R245): here the plain gating of R225 goes on, with no stop forced and DRV_START issued again when the drive
is not running: the model's choice (log 32). -/
def gate (e : EnvConfig) (mask : Byte) (d : Drive) (request : Nat) : Option Transition :=
  if d.running then
    if mask ≠ 0 ∨ (request ≤ e.stopFrequency ∧ d.freq ≤ e.stopFrequency) then some .stop else none
  else
    if e.stopFrequency < request ∧ mask = 0 then some .start else none

/-- The regulator's defaults (R221): not regulating, no on-time; thresholds and delay are configuration. -/
def Regulator.atRest (g : Regulator) : Regulator := { g with regulating := false, regStartTime := 0 }

/-- RegulatorState is "reset to zero/defaults by the stop/start transitions" (R221). A stop leaves the
defaults. A start leaves them and, where the policy has the drive run, enters that state as for the first
time (R222), so that the minimum on-time runs from the start: the order is the model's choice (log 33). -/
def Regulator.after (tick : Nat) (g : Regulator) : Option Transition → Regulator
  | none => g
  | some .stop => g.atRest
  | some .start => if g.regulating then { g.atRest with regulating := true, regStartTime := tick } else g.atRest

/-- What one pass of the environment's main loop does: its new state, the mask its fault logic writes, and the
operations it issues. -/
structure EnvPass where
  env : EnvState
  mask : Byte
  ops : List Instr
deriving DecidableEq, Repr

/-- One pass, fault evaluation before regulation (R234). It issues PS_CONSUME as the head of regulation, so
that at least one stands in every pass (R271); the place in the pass is the model's choice (log 29). The
gating compares the `reqFreq` the pass leaves (R225); that it is evaluated in every pass, and not only in one
that invokes the regulator, is the model's choice (log 34). The pass decides everything on one state `s`, taken
before its operations run: an interrupt may fall between those (R69, R234), and that the pass then sees none of
its writes is the model's choice (log 35). -/
def envPass (e : EnvConfig) (r : EnvReadings) (s : State) (v : EnvState) : EnvPass :=
  let mask := evalMask e r s v.setTimes
  let g := regulate e r s v.regulator
  let request := passRequest e r s (visibleFault e mask) g
  let reqFreq := (request.map fun v => fit s.cfg.freqW v.toNat).getD s.drive.reqFreq
  let move := gate e (visibleFault e mask) s.drive reqFreq
  { env := ⟨evalSetTimes e r s v.setTimes, g.after s.drive.tick move⟩
    mask := mask
    ops := .psConsume :: (request.map Instr.drvSetreq).toList ++ (move.map Transition.op).toList }

/-- The objects a pass issues to the block. -/
def envInputs (e : EnvConfig) (r : EnvReadings) (s : State) (v : EnvState) : List Input :=
  .envFault (envPass e r s v).mask :: issued (envPass e r s v).ops

end Sys2Proof.Machine
end

