-- ==== Sys2Proof/Safety.lean ====
section
/-! DEFINITION. What claims are stated in: the invariant of the block's state, and the premises that the hazards
of 70_reset section 2 put on the environment. -/

namespace Sys2Proof

open Sys2Proof.Machine

/-- The waveform group within its widths and ranges (R21 to R31, R139). -/
structure DriveInv (c : Config) (d : Drive) : Prop where
  freq_fits : d.freq < 2 ^ c.freqW
  req_fits : d.reqFreq < 2 ^ c.freqW
  acc_fits : d.acc < accModulus c
  /-- R25: "always equal to `(acc >> ACC_SHIFT) & 0xFF`". -/
  index_derived : d.phaseIndex = indexOf c d.acc
  /-- R26. -/
  depth_bounded : d.modDepth.toNat ≤ modMax
  /-- R29. -/
  divider_bounded : d.subDiv < c.rampDiv
  tick_fits : d.tick < 2 ^ c.tickW
  /-- R139. -/
  cmp_range : ∀ p : Fin 3, cmpLow c ≤ d.cmp.get p ∧ d.cmp.get p ≤ cmpHigh c

/-- The detector group: the stamp within its width (R38), the filtered value the median of the ring
(R37). -/
structure PressInv (c : Config) (p : Pressure) : Prop where
  age_fits : p.lastSampleAge < 2 ^ c.tickW
  filtered_is_median : p.filtered = ringMedian p.ring

/-- The bytes 0 to 5 of the request held in the serial group's fields (R43, R44). -/
def requestHead (f : Serial) : List Byte :=
  [f.frmAddr, f.frmFunc, hiByte f.startReg, loByte f.startReg, hiByte f.regCount, loByte f.regCount]

/-- The bytes of the current response emitted so far, in emission order (R46). -/
def sentBytes (f : Serial) (tx : List Byte) : List Byte := (tx.take f.cursor.toNat).reverse

/-- Where a request or a response stands (R39 to R46): counts in range, the running CRC that of the bytes
received or emitted so far, and an answered function code. -/
structure SerialInv (f : Serial) (tx : List Byte) : Prop where
  receiving_count : f.fState = .receiving → 1 ≤ f.rxCount.toNat ∧ f.rxCount.toNat ≤ 7
  validating_count : f.fState = .validating → f.rxCount.toNat = 8
  request_crc : f.fState = .receiving ∨ f.fState = .validating →
    f.runningCrc = crc16 ((requestHead f).take f.rxCount.toNat)
  function_supported : f.fState = .receiving ∨ f.fState = .validating → 2 ≤ f.rxCount.toNat →
    f.ignore = false → f.frmFunc = fcRead
  answered_function : f.fState = .responding → f.frmFunc = fcRead
  answered_count : f.fState = .responding → f.regCount.toNat ≤ maxRegs
  cursor_bounded : f.fState = .responding → f.cursor.toNat ≤ responseLength f
  sent_recorded : f.fState = .responding → f.cursor.toNat ≤ tx.length
  /-- R194: the header emitted so far. -/
  sent_header : f.fState = .responding →
    (sentBytes f tx).take 3 =
      [f.frmAddr, f.frmFunc, BitVec.ofNat 8 (2 * f.regCount.toNat)].take f.cursor.toNat
  /-- R194, R195: the accumulator is the CRC of the payload emitted so far. -/
  response_crc : f.fState = .responding →
    f.runningCrc = crc16 ((sentBytes f tx).take (3 + 2 * f.regCount.toNat))
  /-- R197: the trailer emitted so far, low byte first. -/
  sent_trailer : f.fState = .responding →
    (sentBytes f tx).drop (3 + 2 * f.regCount.toNat) =
      [loByte f.runningCrc, hiByte f.runningCrc].take (f.cursor.toNat - (3 + 2 * f.regCount.toNat))

/-- The invariant of the block: a valid configuration and the three groups in order. -/
structure Inv (s : State) : Prop where
  config : configValid s.cfg = true
  drive : DriveInv s.cfg s.drive
  press : PressInv s.cfg s.press
  serial : SerialInv s.ser s.tx

/-- "No DRV_START while `fault` ≠ 0" (R268, R269, 93 U5). -/
def StartsOnlyFaultFree (i : Instr) (s : State) : Prop := i = .drvStart → s.fault = 0

/-- The interlock the premise gives: a latched short circuit keeps the bridge off (R237, R269). -/
def BridgeInterlock (s : State) : Prop :=
  faultSet s.cfg.faultBit s.fault .shortCircuit = true → s.drive.bridgeEn = false

/-- "No CAP_EDGE while `pending` = 1" (R166, R271, 93 U6): the premise of claims about what becomes of every
edge's delta. -/
def NoCaptureWhilePending (i : Instr) (s : State) : Prop :=
  (∃ c ovf, i = .capEdge c ovf) → s.press.pending = false

/-- The deltas recorded since RESET or PS_RESET, oldest first, as the operation `i` at `s` continues them
(R163, R172). A record of the claims' own: no operation reads it. -/
def deltasAfter (i : Instr) (s : State) (ds : List Word) : List Word :=
  match i with
  | .capEdge c ovf => ds ++ [(captureStep s.cfg c (flagOf ovf) s.press).rawDelta]
  | .psReset | .reset => []
  | .pwmCarrier | .pwmMatch _ | .drvStart | .drvStop | .drvSetreq _ | .drvSetdir _ | .tmrOvf | .psConsume
  | .rxByte _ | .rxSilence | .serPoll _ | .txGuard | .cfgAddr _ | .scTrap | .readHolding _ _ _ _ _ => ds

/-- The ring and its index after the samples `ds` were pushed in order into an empty ring (R170). -/
def ringOf (ds : List Word) : File3 Word × Fin 3 :=
  ds.foldl (fun r d => (r.1.set r.2 d, r.2 + 1)) (⟨0, 0, 0⟩, 0)

/-- No delta is lost: of the deltas `ds`, all but a pending last one went through the plausibility check into
the ring (R166, R168 to R170). -/
structure SampleHistory (s : State) (ds : List Word) : Prop where
  pending_last : s.press.pending = true → ds.getLast? = some s.press.rawDelta
  ring_holds : (s.press.ring, s.press.ringIdx) =
    ringOf ((if s.press.pending then ds.dropLast else ds).filter (plausible s.cfg))
  filtered_is_median : s.press.filtered = ringMedian s.press.ring

/-- The nominal schedule of one carrier period (R136, R266): the three compare matches in any order. -/
def NominalMatches (is : List Instr) : Prop := is.Perm [.pwmMatch 0, .pwmMatch 1, .pwmMatch 2]

/-- The environment's three assumptions for a capture (R167): an edge at counter time `edge` is serviced at
`now`, `serviced` counter wraps having been counted by TMR_OVF. -/
structure CaptureTiming (c : Config) (edge now serviced : Nat) (ovf : Bool) : Prop where
  after_edge : edge ≤ now
  /-- Assumption 1: no TMR_OVF between the edge and its service, so none for a wrap after the edge. -/
  counted_before : serviced ≤ edge / 2 ^ 16
  /-- Assumption 2: at most one wrap is unserviced, and `ovf` says whether one is. -/
  one_unserviced : now / 2 ^ 16 ≤ serviced + 1
  flag_right : ovf = decide (serviced < now / 2 ^ 16)
  /-- Assumption 3: an unserviced wrap before the edge is fewer than CAP_LOW ticks old at the edge. -/
  overflow_latency : serviced < edge / 2 ^ 16 → edge % 2 ^ 16 < c.capLow
  /-- Assumption 3: a wrap after the edge comes within 2^16 − CAP_LOW ticks of it. -/
  capture_latency : edge / 2 ^ 16 < now / 2 ^ 16 → (2 ^ 16 - edge % 2 ^ 16) + c.capLow ≤ 2 ^ 16

end Sys2Proof
end

