-- ==== Sys2Proof/Certificates/Slice0/Obligations.lean ====
section
/-! DEFINITION. The statements for the provers. Each operation's statement gives its whole next state as an
update of the state before, so that it is its result, its frame and its completion at once: whatever the
update does not name is unchanged. -/

open Sys2Proof
open Sys2Proof.Machine

/-! ### Encoding -/

/-- Words of R91, written out, decode to the operations that 95_test_vectors 2.6 lists for them, and reserved
words of R110 are refused; the names they are refused under (phase, operandBits, op, unit) are the model's
choice (log 4), R110 having the one class "reserved". -/
def Obligations.SpecWordsDecode : Prop :=
  decodeWord 0x10000000#32 = .ok .pwmCarrier ∧
  decodeWord 0x11000002#32 = .ok (.pwmMatch 2#2) ∧
  decodeWord 0x140000CD#32 = .ok (.drvSetreq 205#16) ∧
  decodeWord 0x2101FF00#32 = .ok (.capEdge 0xFF00#16 1#1) ∧
  decodeWord 0x300000C4#32 = .ok (.rxByte 0xC4#8) ∧
  decodeWord 0x3200ABCD#32 = .ok (.serPoll 0xABCD#16) ∧
  decodeWord 0xF1000000#32 = .ok .scTrap ∧
  decodeWord 0x11000003#32 = .error .phase ∧
  decodeWord 0x14010000#32 = .error .operandBits ∧
  decodeWord 0x16000000#32 = .error .op ∧
  decodeWord 0x40000000#32 = .error .unit

/-- No operand bit of any well-formed operation is dropped: decoding what `encode` writes gives the
operation back, for the event words (R91) and the request frame (R100). -/
def Obligations.DecodeAfterEncode : Prop :=
  ∀ i : Instr, i.wellFormed = true → decodeInput (encode i) = some (.ok i)

/-- Each word and each frame has one meaning: an object that decodes to an operation is what `encode` writes
for it, and the operation is well formed. -/
def Obligations.EncodeAfterDecode : Prop :=
  ∀ (x : Input) (i : Instr), decodeInput x = some (.ok i) → encode i = x ∧ i.wellFormed = true

/-- R91: a word selects at most one row of the opcode map. -/
def Obligations.OpcodeRowsDisjoint : Prop :=
  ∀ w : Word, opcodeRows.Pairwise fun a b =>
    ¬(fixedAbove w a.2.1 a.2.2 = true ∧ fixedAbove w b.2.1 b.2.2 = true)

/-- R110: a word is refused exactly when it matches no row (an unnamed bit set matches none) or is PWM_MATCH
with p = 3; the step that takes it changes nothing and records the refusal. -/
def Obligations.ReservedWordsRefused : Prop :=
  ∀ (s : State) (w : Word) (rest : List Input),
    configValid s.cfg = true → s.inputs = .word w :: rest →
    (((∀ r ∈ opcodeRows, fixedAbove w r.2.1 r.2.2 = false) ∨ w = 0x11000003#32) ↔
      ∃ why, step s = .refused (.reservedWord why w))

/-! ### The step -/

/-- When the next object decodes to an operation, the step is `exec` of it at the state with that object
taken off `inputs`. That operations stand in `inputs` and a step takes the head is the model's choice
(log 1). -/
def Obligations.StepRunsDecodedOperation : Prop :=
  ∀ (s : State) (x : Input) (rest : List Input) (i : Instr),
    configValid s.cfg = true → s.inputs = x :: rest → decodeInput x = some (.ok i) →
    step s = exec i { s with inputs := rest }

/-- The table's bits, issued as the next operation, run as the operation the decoder reads from them (how a
word is issued is the model's own, log 1). -/
def Obligations.IssuedTableWordRuns : Prop :=
  ∀ (s : State) (nbits w : Nat) (i : Instr),
    configValid s.cfg = true → decodeTableWord nbits w = some i →
    step (s.withFetchWord nbits w) = exec i s

/-- R139: "a model refuses a configuration that is not" valid, before anything runs; R139's constraint, with
RAMP_DIV ≥ 1 (the model's choice, log 8) and distinct fault positions (the model's choice, log 17). -/
def Obligations.InvalidConfigurationRefused : Prop :=
  ∀ s : State,
    (step s = .refused .invalidConfiguration ↔
      ¬(1 ≤ s.cfg.rampDiv ∧
        (31877 + 2 ^ s.cfg.modShift - 1) / 2 ^ s.cfg.modShift ≤ s.cfg.halfScale ∧
        s.cfg.halfScale + 31877 / 2 ^ s.cfg.modShift ≤ 2 ^ s.cfg.cmpW - 1 ∧
        s.cfg.faultBit.positions.Nodup))

/-- What is no operation of the block, as the model takes it: the environment's write of its seven fault bits
is an object of `inputs` (the model's choice, log 16) that leaves the short-circuit bit and all else; a
frame object with another function code, which decodes to nothing, is received like any bytes and not
refused (the model's choice, log 6); with nothing issued nothing changes (the model's choice, log 2). -/
def Obligations.EnvironmentObjectsRun : Prop :=
  (∀ (s : State) (mask : Byte) (rest : List Input),
    configValid s.cfg = true → s.inputs = .envFault mask :: rest →
    ∃ m : Byte, step s = .next { s with inputs := rest, fault := m } ∧
      ∀ i : Fin 8, m.getLsbD i =
        if i = s.cfg.faultBit.shortCircuit then s.fault.getLsbD i else mask.getLsbD i) ∧
  (∀ (s : State) (b0 b1 b2 b3 b4 b5 b6 b7 : Byte) (rest : List Input),
    configValid s.cfg = true → b1 ≠ 0x03#8 →
    s.inputs = .frame (b0 ++ b1 ++ b2 ++ b3 ++ b4 ++ b5 ++ b6 ++ b7) :: rest →
    step s = runOps (rxFrame [b0, b1, b2, b3, b4, b5, b6, b7]) { s with inputs := rest }) ∧
  (∀ s : State, configValid s.cfg = true → s.inputs = [] → step s = .next s)

/-! ### The waveform engine -/

/-- R131 with R132, R133, R134: the divider, the ramp and tick step, the accumulator and index, the
modulation depth, in this order; everything else keeps its value. -/
def Obligations.CarrierRampsAdvancesAndScales : Prop :=
  encode .pwmCarrier = .word 0x10000000#32 ∧
  ∀ (s : State) (f a : Nat), DriveInv s.cfg s.drive →
    f = (if s.drive.subDiv + 1 = s.cfg.rampDiv then
          (if s.drive.freq < s.drive.reqFreq then s.drive.freq + 1
           else if s.drive.freq > s.drive.reqFreq then s.drive.freq - 1
           else s.drive.freq)
         else s.drive.freq) →
    (a : Int) = (if s.drive.rotDir = .forward then (s.drive.acc : Int) + f else (s.drive.acc : Int) - f) %
      (256 * 2 ^ s.cfg.accShift : Int) →
    exec .pwmCarrier s = .next
      { s with drive :=
        { s.drive with
          subDiv := if s.drive.subDiv + 1 = s.cfg.rampDiv then 0 else s.drive.subDiv + 1
          tick := if s.drive.subDiv + 1 = s.cfg.rampDiv then (s.drive.tick + 1) % 2 ^ s.cfg.tickW
                  else s.drive.tick
          freq := f
          acc := a
          phaseIndex := BitVec.ofNat 8 (a / 2 ^ s.cfg.accShift)
          modDepth := BitVec.ofNat 8 (min 251 (f * s.cfg.vfGain / 2 ^ s.cfg.vfShift)) } }

/-- R135, over one PWM_CARRIER: `freq` changes by at most one unit, only in the invocation that completes
the divider, never away from `reqFreq`, and stays when equal. -/
def Obligations.CarrierRampLaw : Prop :=
  ∀ s : State, DriveInv s.cfg s.drive → ∃ t, exec .pwmCarrier s = .next t ∧
    t.drive.freq ≤ s.drive.freq + 1 ∧ s.drive.freq ≤ t.drive.freq + 1 ∧
    (t.drive.freq ≠ s.drive.freq → s.drive.subDiv + 1 = s.cfg.rampDiv) ∧
    ((t.drive.freq : Int) - t.drive.reqFreq).natAbs ≤ ((s.drive.freq : Int) - s.drive.reqFreq).natAbs ∧
    (s.drive.freq = s.drive.reqFreq → t.drive.freq = t.drive.reqFreq)

/-- R146: with `reqFreq` left alone, n ramp steps are n · RAMP_DIV invocations; once n reaches
|reqFreq − freq|, `freq` is `reqFreq`, `tick` has advanced by n, and the depth is the constant of R134. -/
def Obligations.RampReachesRequest : Prop :=
  ∀ (s : State) (n : Nat), DriveInv s.cfg s.drive →
    ((s.drive.reqFreq : Int) - s.drive.freq).natAbs ≤ n →
    ∃ t, runOps (repeatTrace (n * s.cfg.rampDiv) [.pwmCarrier]) s = .next t ∧
      t.drive.freq = s.drive.reqFreq ∧ t.drive.reqFreq = s.drive.reqFreq ∧
      t.drive.subDiv = s.drive.subDiv ∧
      t.drive.tick = (s.drive.tick + n) % 2 ^ s.cfg.tickW ∧
      (0 < n → t.drive.modDepth =
        BitVec.ofNat 8 (min 251 (s.drive.reqFreq * s.cfg.vfGain / 2 ^ s.cfg.vfShift)))

/-- R137, R138, R139: PWM_MATCH p writes `cmp[p]` with the scaled, shifted product plus HALF_SCALE, in
R139's interval, and nothing else; p = 3 is refused. `/` on integers is floor for a positive divisor; the
toward-zero variant is the parameter of 93 U1. -/
def Obligations.MatchWritesScaledEntry : Prop :=
  (∀ p : BitVec 2, encode (.pwmMatch p) = .word (0x11000000#32 ||| p.setWidth 32)) ∧
  (∀ s : State, exec (.pwmMatch 3#2) s = .refused .reservedPhase) ∧
  ∀ (s : State) (p : BitVec 2) (q : Fin 3) (v : Int),
    configValid s.cfg = true → s.drive.modDepth.toNat ≤ 251 → q.val = p.toNat →
    v = (if s.cfg.productShift = .floor then
          (tableRead q s.drive.phaseIndex * (s.drive.modDepth.toNat : Int)) / 2 ^ s.cfg.modShift
         else (tableRead q s.drive.phaseIndex * (s.drive.modDepth.toNat : Int)).tdiv (2 ^ s.cfg.modShift))
        + (s.cfg.halfScale : Int) →
    exec (.pwmMatch p) s = .next
      { s with drive := { s.drive with cmp := s.drive.cmp.set q v.toNat } } ∧
    (v.toNat : Int) = v ∧ cmpLow s.cfg ≤ v.toNat ∧ v.toNat ≤ cmpHigh s.cfg

/-- R138: no depth gives exactly HALF_SCALE, and a repeated PWM_MATCH writes the same value. -/
def Obligations.MatchAtRestAndTwice : Prop :=
  (∀ (s : State) (p : BitVec 2) (q : Fin 3), configValid s.cfg = true → q.val = p.toNat →
    s.drive.modDepth = 0#8 → ∃ t, exec (.pwmMatch p) s = .next t ∧ t.drive.cmp.get q = s.cfg.halfScale) ∧
  (∀ (s : State) (p : BitVec 2), p ≠ 3#2 →
    ∃ t, exec (.pwmMatch p) s = .next t ∧ exec (.pwmMatch p) t = .next t)

/-- R136, R270: after PWM_CARRIER and the three matches in any order, every compare register derives from
the same angle step and depth, whatever the order; with the floor shift, the largest and the smallest of
the three add up to 2·HALF_SCALE or one less. -/
def Obligations.NominalPeriodRewritesAll : Prop :=
  ∀ (s : State) (is : List Instr), Inv s → s.cfg.productShift = .floor → NominalMatches is →
    ∃ u t, exec .pwmCarrier s = .next u ∧ runOps (.pwmCarrier :: is) s = .next t ∧
      t = { u with drive := { u.drive with cmp := t.drive.cmp } } ∧
      (∀ p : Fin 3, (t.drive.cmp.get p : Int) =
        (tableRead p u.drive.phaseIndex * (u.drive.modDepth.toNat : Int)) / 2 ^ s.cfg.modShift
          + (s.cfg.halfScale : Int)) ∧
      (max (t.drive.cmp.get 0) (max (t.drive.cmp.get 1) (t.drive.cmp.get 2)) +
        min (t.drive.cmp.get 0) (min (t.drive.cmp.get 1) (t.drive.cmp.get 2)) ≤ 2 * s.cfg.halfScale) ∧
      (2 * s.cfg.halfScale ≤
        max (t.drive.cmp.get 0) (max (t.drive.cmp.get 1) (t.drive.cmp.get 2)) +
        min (t.drive.cmp.get 0) (min (t.drive.cmp.get 1) (t.drive.cmp.get 2)) + 1)

/-- R141. -/
def Obligations.StartEnablesFromStandstill : Prop :=
  encode .drvStart = .word 0x12000000#32 ∧
  ∀ s : State, exec .drvStart s = .next
    { s with drive :=
      { s.drive with
        freq := 0, modDepth := 0#8, acc := 0, phaseIndex := 0#8, running := true, bridgeEn := true } }

/-- R142. -/
def Obligations.StopDisablesAndZeroes : Prop :=
  encode .drvStop = .word 0x13000000#32 ∧
  ∀ s : State, exec .drvStop s = .next
    { s with drive :=
      { s.drive with
        bridgeEn := false, running := false, freq := 0, modDepth := 0#8, acc := 0, phaseIndex := 0#8 } }

/-- R143 with R10 and R22: every v is accepted and is the new `reqFreq` at 16 bits and more; below 16 bits it is
written modulo 2^FREQ_W, as the model truncates at a write (the model's choice, log 9). -/
def Obligations.SetRequestWritesTarget : Prop :=
  (∀ v : Half, encode (.drvSetreq v) = .word (0x14000000#32 ||| v.setWidth 32)) ∧
  (∀ (s : State) (v : Half), exec (.drvSetreq v) s = .next
    { s with drive := { s.drive with reqFreq := v.toNat % 2 ^ s.cfg.freqW } }) ∧
  (∀ (s : State) (v : Half), 16 ≤ s.cfg.freqW → exec (.drvSetreq v) s = .next
    { s with drive := { s.drive with reqFreq := v.toNat } })

/-- R144. -/
def Obligations.SetDirectionWritesBit : Prop :=
  (∀ d : BitVec 1, encode (.drvSetdir d) = .word (0x15000000#32 ||| d.setWidth 32)) ∧
  ∀ (s : State) (d : BitVec 1), exec (.drvSetdir d) s = .next
    { s with drive := { s.drive with rotDir := if d = 0#1 then .forward else .reverse } }

/-- Who writes what in the waveform group (R73, R140, the Written-by lines of R21 to R31): a variable that
changes was changed by one of its writers, and RESET. -/
def Obligations.DriveVariablesHaveTheirWriters : Prop :=
  ∀ (i : Instr) (s t : State), exec i s = .next t → i ≠ .reset →
    ((t.drive.freq ≠ s.drive.freq ∨ t.drive.modDepth ≠ s.drive.modDepth ∨ t.drive.acc ≠ s.drive.acc ∨
        t.drive.phaseIndex ≠ s.drive.phaseIndex) → i = .pwmCarrier ∨ i = .drvStart ∨ i = .drvStop) ∧
    ((t.drive.subDiv ≠ s.drive.subDiv ∨ t.drive.tick ≠ s.drive.tick) → i = .pwmCarrier) ∧
    (t.drive.reqFreq ≠ s.drive.reqFreq → ∃ v, i = .drvSetreq v) ∧
    (t.drive.rotDir ≠ s.drive.rotDir → ∃ d, i = .drvSetdir d) ∧
    (t.drive.running ≠ s.drive.running → i = .drvStart ∨ i = .drvStop) ∧
    (t.drive.bridgeEn ≠ s.drive.bridgeEn → i = .drvStart ∨ i = .drvStop ∨ i = .scTrap) ∧
    (∀ q : Fin 3, t.drive.cmp.get q ≠ s.drive.cmp.get q →
      ∃ p : BitVec 2, i = .pwmMatch p ∧ p.toNat = q.val)

/-- R70, R267: what the main loop writes of the state it shares with the carrier interrupt, it writes inside
the critical section. -/
def Obligations.GuardedWritesAreInCriticalSections : Prop :=
  ∀ (i : Instr) (s t : State), exec i s = .next t → contextOf i = .mainLoop →
    t.drive.freq ≠ s.drive.freq ∨ t.drive.reqFreq ≠ s.drive.reqFreq ∨ t.drive.rotDir ≠ s.drive.rotDir ∨
      t.drive.modDepth ≠ s.drive.modDepth ∨ t.drive.bridgeEn ≠ s.drive.bridgeEn →
    inCriticalSection i

/-- R232: of two interrupt operations of different priority the order never changes the result; between
CAP_EDGE and TMR_OVF, which share one, it can. -/
def Obligations.PriorityNeverChangesResult : Prop :=
  (∀ (i j : Instr) (m n : Nat) (s : State), interruptPriority i = some m → interruptPriority j = some n →
    m ≠ n → i.wellFormed = true → j.wellFormed = true →
    ∃ t, runOps [i, j] s = .next t ∧ runOps [j, i] s = .next t) ∧
  ∃ t u, runOps [.capEdge 0#16 0#1, .tmrOvf] State.reset = .next t ∧
    runOps [.tmrOvf, .capEdge 0#16 0#1] State.reset = .next u ∧
    t.press.lastCaptureTime = 0#32 ∧ u.press.lastCaptureTime = 0x10000#32

/-! ### The waveform table -/

/-- R125, properties 1, 2 and 4, over all 256 indices. -/
def Obligations.TableRangeCenteringSymmetry : Prop :=
  (∀ (p : Fin 3) (i : Byte), -127 ≤ tableRead p i ∧ tableRead p i ≤ 127) ∧
  (∀ p : Fin 3, (∃ i : Byte, tableRead p i = 127) ∧ ∃ i : Byte, tableRead p i = -127) ∧
  (∀ i : Byte, max (tableRead 0 i) (max (tableRead 1 i) (tableRead 2 i)) +
    min (tableRead 0 i) (min (tableRead 1 i) (tableRead 2 i)) = 0) ∧
  (∀ i : Byte, tableRead 0 i = -tableRead 0 (-i) ∧ tableRead 1 i = -tableRead 2 (-i)) ∧
  (∀ (p : Fin 3) (i : Byte), tableRead p i = -tableRead p (i + 128#8))

/-- The check sums of R124, and R125 properties 5 and 6: the phases are no shifted copies of one table, and
their sum is not zero (R126) but ranges over −110 .. 110. -/
def Obligations.TableCheckSums : Prop :=
  (∀ p : Fin 3, ((List.range 256).map fun i => tableRead p (BitVec.ofNat 8 i)).sum = 0) ∧
  ((List.range 256).map fun i => (tableRead 0 (BitVec.ofNat 8 i)).natAbs).sum = 25496 ∧
  ((List.range 256).map fun i => (tableRead 1 (BitVec.ofNat 8 i)).natAbs).sum = 25504 ∧
  ((List.range 256).map fun i => (tableRead 2 (BitVec.ofNat 8 i)).natAbs).sum = 25504 ∧
  ((List.range 256).filter fun i =>
    tableRead 1 (BitVec.ofNat 8 i) != tableRead 0 (BitVec.ofNat 8 (i + 85))).length = 130 ∧
  ((List.range 256).filter fun i =>
    tableRead 1 (BitVec.ofNat 8 i) != tableRead 0 (BitVec.ofNat 8 (i + 86))).length = 176 ∧
  (∀ i : Byte, -110 ≤ tableRead 0 i + tableRead 1 i + tableRead 2 i ∧
    tableRead 0 i + tableRead 1 i + tableRead 2 i ≤ 110) ∧
  tableRead 0 64#8 + tableRead 1 64#8 + tableRead 2 64#8 = -110 ∧
  tableRead 0 192#8 + tableRead 1 192#8 + tableRead 2 192#8 = 110

/-- R121 to R123: the listed table is the generator's, in both its forms; the generator's sines are fixed-point
values of the model's own (log 11). -/
def Obligations.TableIsGenerated : Prop :=
  ∀ (p : Fin 3) (i : Byte),
    tableRead p i = genEntry p i.toNat ∧ tableRead p i = genEntryMinMax p i.toNat

/-! ### The pressure-period detector -/

/-- R161. -/
def Obligations.OverflowCounts : Prop :=
  encode .tmrOvf = .word 0x20000000#32 ∧
  ∀ s : State, exec .tmrOvf s = .next
    { s with press :=
      { s.press with ovfCount := BitVec.ofNat 16 ((s.press.ovfCount.toNat + 1) % 2 ^ 16) } }

/-- R162, R163, R164: the reconstructed timestamp, the modular delta, `pending` set whatever it was
(R166). -/
def Obligations.CaptureRecordsDelta : Prop :=
  (∀ (c : Half) (ovf : BitVec 1),
    encode (.capEdge c ovf) = .word (0x21000000#32 ||| (ovf.setWidth 32 <<< 16) ||| c.setWidth 32)) ∧
  ∀ (s : State) (c : Half) (ovf : BitVec 1) (hi : Half) (ts : Nat),
    hi = (if ovf = 1#1 ∧ c.toNat < s.cfg.capLow then
            BitVec.ofNat 16 ((s.press.ovfCount.toNat + 1) % 2 ^ 16)
          else s.press.ovfCount) →
    ts = hi.toNat * 2 ^ 16 + c.toNat →
    exec (.capEdge c ovf) s = .next
      { s with press :=
        { s.press with
          rawDelta := BitVec.ofInt 32 (((ts : Int) - s.press.lastCaptureTime.toNat) % 2 ^ 32)
          lastCaptureTime := BitVec.ofNat 32 ts
          pending := true } }

/-- R167: under the environment's three assumptions the reconstruction is the true counter time modulo
2^32, and the delta of two such captures in a row is the true number of counter ticks between the two
edges, modulo 2^32. -/
def Obligations.TimestampIsTrueTime : Prop :=
  (∀ (c : Config) (edge now serviced : Nat) (ovf : Bool), CaptureTiming c edge now serviced ovf →
    recon c (BitVec.ofNat 16 serviced) (BitVec.ofNat 16 edge) ovf = BitVec.ofNat 32 edge) ∧
  (∀ (s : State) (first edge now serviced : Nat) (ovf : BitVec 1),
    CaptureTiming s.cfg edge now serviced (decide (ovf = 1#1)) → first ≤ edge →
    s.press.lastCaptureTime = BitVec.ofNat 32 first → s.press.ovfCount = BitVec.ofNat 16 serviced →
    ∃ t, exec (.capEdge (BitVec.ofNat 16 edge) ovf) s = .next t ∧
      t.press.rawDelta = BitVec.ofNat 32 (edge - first))

/-- R168, R169, R170: nothing without a pending sample; an implausible one only clears `pending`; an accepted
one goes into the slot `ringIdx` points at, with the index advanced, the median of the three slots and
the tick recorded. It speaks of the `rawDelta` there is; that every edge's delta comes to be one needs R166's
premise, EveryDeltaReachesTheFilter. -/
def Obligations.ConsumeFiltersPendingSample : Prop :=
  encode .psConsume = .word 0x22000000#32 ∧
  (∀ s : State, s.press.pending = false → exec .psConsume s = .next s) ∧
  (∀ s : State, s.press.pending = true →
    (s.press.rawDelta.toNat < s.cfg.periodMin ∨ s.cfg.periodMax < s.press.rawDelta.toNat) →
    exec .psConsume s = .next { s with press := { s.press with pending := false } }) ∧
  (∀ (s : State) (r : File3 Word), s.press.pending = true →
    s.cfg.periodMin ≤ s.press.rawDelta.toNat → s.press.rawDelta.toNat ≤ s.cfg.periodMax →
    (∀ k : Fin 3, r.get k = if k = s.press.ringIdx then s.press.rawDelta else s.press.ring.get k) →
    exec .psConsume s = .next
      { s with press :=
        { s.press with
          pending := false
          ring := r
          ringIdx := ⟨(s.press.ringIdx.val + 1) % 3, Nat.mod_lt _ (by decide)⟩
          filtered := median3 (r.get 0) (r.get 1) (r.get 2)
          lastSampleAge := s.drive.tick } })

/-- R171: the median is the lowest slot that lies between the other two, and its value the second smallest as
an unsigned number. -/
def Obligations.MedianIsSecondSmallest : Prop :=
  ∀ a b c : Word,
    (median3 a b c).toNat = max (min a.toNat b.toNat) (min (max a.toNat b.toNat) c.toNat) ∧
    (((b.toNat ≤ a.toNat ∧ a.toNat ≤ c.toNat) ∨ (c.toNat ≤ a.toNat ∧ a.toNat ≤ b.toNat)) →
      median3 a b c = a) ∧
    (¬((b.toNat ≤ a.toNat ∧ a.toNat ≤ c.toNat) ∨ (c.toNat ≤ a.toNat ∧ a.toNat ≤ b.toNat)) →
      median3 a b c =
        if (a.toNat ≤ b.toNat ∧ b.toNat ≤ c.toNat) ∨ (c.toNat ≤ b.toNat ∧ b.toNat ≤ a.toNat) then b
        else c)

/-- R170, with R166's premise at each capture: from an empty ring the filtered value is 0 after the first
accepted sample x, the smaller of the two after the second, and the median of three real samples after the
third; each is the delta of its own CAP_EDGE, and once consumed the premise holds for the next. -/
def Obligations.RingStartsUpWithZeros : Prop :=
  ∀ (s : State) (c1 c2 c3 : Half) (o1 o2 o3 : BitVec 1) (x y z : Word),
    x = recon s.cfg s.press.ovfCount c1 (flagOf o1) - s.press.lastCaptureTime →
    y = recon s.cfg s.press.ovfCount c2 (flagOf o2) - recon s.cfg s.press.ovfCount c1 (flagOf o1) →
    z = recon s.cfg s.press.ovfCount c3 (flagOf o3) - recon s.cfg s.press.ovfCount c2 (flagOf o2) →
    plausible s.cfg x = true → plausible s.cfg y = true → plausible s.cfg z = true →
    s.press.ring = ⟨0, 0, 0⟩ → s.press.ringIdx = 0 → NoCaptureWhilePending (.capEdge c1 o1) s →
    ∃ t1 t2 t3, runOps [.capEdge c1 o1, .psConsume] s = .next t1 ∧
      t1.press.ring = ⟨x, 0, 0⟩ ∧ t1.press.filtered = 0#32 ∧
      NoCaptureWhilePending (.capEdge c2 o2) t1 ∧ runOps [.capEdge c2 o2, .psConsume] t1 = .next t2 ∧
      t2.press.ring = ⟨x, y, 0⟩ ∧ t2.press.filtered.toNat = min x.toNat y.toNat ∧
      NoCaptureWhilePending (.capEdge c3 o3) t2 ∧ runOps [.capEdge c3 o3, .psConsume] t2 = .next t3 ∧
      t3.press.ring = ⟨x, y, z⟩ ∧ t3.press.ringIdx = 0 ∧ t3.press.filtered = median3 x y z

/-- R172. -/
def Obligations.DetectorResetClearsWorkingSet : Prop :=
  encode .psReset = .word 0x23000000#32 ∧
  ∀ s : State, exec .psReset s = .next
    { s with press :=
      { s.press with
        ring := ⟨0, 0, 0⟩, ringIdx := 0, rawDelta := 0#32, pending := false, filtered := 0#32,
        lastCaptureTime := 0#32, lastSampleAge := 0 } }

/-! ### The serial engine -/

/-- R182: the table form of the CRC update, over the listed CRCTAB, equals the bitwise form of R181. -/
def Obligations.CrcTableFormAgrees : Prop :=
  ∀ (crc : Half) (b : Byte),
    crcUpdate crc b = (crc >>> 8) ^^^ crcTab ((crc ^^^ b.setWidth 16).setWidth 8)

/-- R183: a sequence followed by its CRC, low byte first, has CRC 0; and the check values. -/
def Obligations.CrcResidueIsZero : Prop :=
  (∀ bs : List Byte, crc16 (bs ++ [(crc16 bs).extractLsb' 0 8, (crc16 bs).extractLsb' 8 8]) = 0#16) ∧
  crc16 [] = 0xFFFF#16 ∧
  crc16 [0x31, 0x32, 0x33, 0x34, 0x35, 0x36, 0x37, 0x38, 0x39] = 0x4B37#16 ∧
  crc16 [0x01, 0x03, 0x00, 0x00, 0x00, 0x02] = 0x0BC4#16 ∧
  crc16 [0x11, 0x03, 0x00, 0x6B, 0x00, 0x03] = 0x8776#16

/-- R185. -/
def Obligations.SilenceAbandonsPartialFrame : Prop :=
  encode .rxSilence = .word 0x31000000#32 ∧
  ∀ s : State, exec .rxSilence s = .next
    { s with ser :=
      { s.ser with
        lineIdle := true
        fState := if s.ser.fState = .receiving then .idle else s.ser.fState } }

/-- R186, R188, outside a frame: a byte after a silence starts a frame as its byte 0; a byte with no silence
before it, or while a frame is validated or answered, changes only `lineIdle`. -/
def Obligations.ByteStartsFrameOrIsDiscarded : Prop :=
  (∀ b : Byte, encode (.rxByte b) = .word (0x30000000#32 ||| b.setWidth 32)) ∧
  (∀ (s : State) (b : Byte), s.ser.fState = .idle → s.ser.lineIdle = true →
    exec (.rxByte b) s = .next
      { s with ser :=
        { s.ser with
          lineIdle := false, fState := .receiving, ignore := b != s.ser.stationAddr, frmAddr := b,
          runningCrc := crcUpdate 0xFFFF#16 b, rxCount := 1#4 } }) ∧
  (∀ (s : State) (b : Byte),
    (s.ser.fState = .idle ∧ s.ser.lineIdle = false) ∨ s.ser.fState = .validating ∨
      s.ser.fState = .responding →
    exec (.rxByte b) s = .next { s with ser := { s.ser with lineIdle := false } })

/-- R186, R187, inside a frame: byte n goes to its field, bytes 0 to 5 into the CRC, the eighth byte ends the
frame; start and count are big-endian, the trailer little-endian (R64). -/
def Obligations.FrameBytesFillTheirFields : Prop :=
  ∀ (s : State) (b : Byte), s.ser.fState = .receiving →
    (s.ser.rxCount = 0#4 → exec (.rxByte b) s = .next { s with ser := { s.ser with
      lineIdle := false, frmAddr := b, ignore := s.ser.ignore || b != s.ser.stationAddr,
      runningCrc := crcUpdate s.ser.runningCrc b, rxCount := 1#4 } }) ∧
    (s.ser.rxCount = 1#4 → exec (.rxByte b) s = .next { s with ser := { s.ser with
      lineIdle := false, frmFunc := b, ignore := s.ser.ignore || b != 0x03#8,
      runningCrc := crcUpdate s.ser.runningCrc b, rxCount := 2#4 } }) ∧
    (s.ser.rxCount = 2#4 → exec (.rxByte b) s = .next { s with ser := { s.ser with
      lineIdle := false, startReg := b ++ s.ser.startReg.extractLsb' 0 8,
      runningCrc := crcUpdate s.ser.runningCrc b, rxCount := 3#4 } }) ∧
    (s.ser.rxCount = 3#4 → exec (.rxByte b) s = .next { s with ser := { s.ser with
      lineIdle := false, startReg := s.ser.startReg.extractLsb' 8 8 ++ b,
      runningCrc := crcUpdate s.ser.runningCrc b, rxCount := 4#4 } }) ∧
    (s.ser.rxCount = 4#4 → exec (.rxByte b) s = .next { s with ser := { s.ser with
      lineIdle := false, regCount := b ++ s.ser.regCount.extractLsb' 0 8,
      runningCrc := crcUpdate s.ser.runningCrc b, rxCount := 5#4 } }) ∧
    (s.ser.rxCount = 5#4 → exec (.rxByte b) s = .next { s with ser := { s.ser with
      lineIdle := false, regCount := s.ser.regCount.extractLsb' 8 8 ++ b,
      runningCrc := crcUpdate s.ser.runningCrc b, rxCount := 6#4 } }) ∧
    (s.ser.rxCount = 6#4 → exec (.rxByte b) s = .next { s with ser := { s.ser with
      lineIdle := false, rxCrc := s.ser.rxCrc.extractLsb' 8 8 ++ b, rxCount := 7#4 } }) ∧
    (s.ser.rxCount = 7#4 → exec (.rxByte b) s = .next { s with ser := { s.ser with
      lineIdle := false, rxCrc := b ++ s.ser.rxCrc.extractLsb' 0 8, rxCount := 8#4,
      fState := .validating } })

/-- R191, R192, R193: a poll in IDLE, RECEIVING and in the guard interval does nothing; in a running response it
is EmitNext (R194 to R197, PollEmitsNextByte), one byte; in VALIDATING it checks the frame (R191) and emits no
byte. -/
def Obligations.PollValidatesOrWaits : Prop :=
  (∀ t : Half, encode (.serPoll t) = .word (0x32000000#32 ||| t.setWidth 32)) ∧
  (∀ (s : State) (t : Half), s.ser.fState = .responding →
    s.ser.cursor.toNat < 3 + 2 * s.ser.regCount.toNat + 2 →
    exec (.serPoll t) s = .next (emitNext t s) ∧ ∃ b, (emitNext t s).tx = b :: s.tx) ∧
  (∀ (s : State) (t : Half), s.ser.fState = .idle ∨ s.ser.fState = .receiving →
    exec (.serPoll t) s = .next s) ∧
  (∀ (s : State) (t : Half), s.ser.fState = .responding →
    3 + 2 * s.ser.regCount.toNat + 2 ≤ s.ser.cursor.toNat → exec (.serPoll t) s = .next s) ∧
  (∀ (s : State) (t : Half), s.ser.fState = .validating →
    s.ser.ignore = false ∧ s.ser.runningCrc = s.ser.rxCrc ∧ s.ser.regCount.toNat ≤ 125 →
    exec (.serPoll t) s = .next { s with ser :=
      { s.ser with fState := .responding, cursor := 0#8, runningCrc := 0xFFFF#16 } }) ∧
  (∀ (s : State) (t : Half), s.ser.fState = .validating →
    ¬(s.ser.ignore = false ∧ s.ser.runningCrc = s.ser.rxCrc ∧ s.ser.regCount.toNat ≤ 125) →
    exec (.serPoll t) s = .next { s with ser := { s.ser with fState := .idle } })

/-- R194 to R197: a poll in RESPONDING emits byte k = `cursor` of the response. The telemetry value is
sampled with the high byte of its register, at an address modulo 2^16, and reads 0 where undefined; the
trailer does not enter the CRC. -/
def Obligations.PollEmitsNextByte : Prop :=
  ∀ (s : State) (t : Half) (k n : Nat) (latch : Half) (out : Byte),
    s.ser.fState = .responding → k = s.ser.cursor.toNat → n = s.ser.regCount.toNat → n ≤ 125 →
    k < 3 + 2 * n + 2 →
    latch = (if 3 ≤ k ∧ k < 3 + 2 * n ∧ (k - 3) % 2 = 0 then
        (if BitVec.ofNat 16 ((s.ser.startReg.toNat + (k - 3) / 2) % 2 ^ 16) ∈ s.cfg.telemetryDefined
          then t else 0#16)
      else s.ser.regLatch) →
    out = (if k = 0 then s.ser.frmAddr
      else if k = 1 then s.ser.frmFunc
      else if k = 2 then BitVec.ofNat 8 ((2 * n) % 256)
      else if k < 3 + 2 * n then
        (if (k - 3) % 2 = 0 then latch.extractLsb' 8 8 else latch.extractLsb' 0 8)
      else if k = 3 + 2 * n then s.ser.runningCrc.extractLsb' 0 8
      else s.ser.runningCrc.extractLsb' 8 8) →
    exec (.serPoll t) s = .next
      { s with
        ser := { s.ser with
          regLatch := latch
          runningCrc := if k < 3 + 2 * n then crcUpdate s.ser.runningCrc out else s.ser.runningCrc
          cursor := BitVec.ofNat 8 (k + 1) }
        tx := out :: s.tx }

/-- R198. -/
def Obligations.GuardEndsResponse : Prop :=
  encode .txGuard = .word 0x33000000#32 ∧
  (∀ s : State, s.ser.fState = .responding → s.ser.cursor.toNat = 3 + 2 * s.ser.regCount.toNat + 2 →
    exec .txGuard s = .next { s with ser := { s.ser with fState := .idle, lineIdle := true } }) ∧
  (∀ s : State, ¬(s.ser.fState = .responding ∧
      s.ser.cursor.toNat = 3 + 2 * s.ser.regCount.toNat + 2) →
    exec .txGuard s = .next s)

/-- R200. -/
def Obligations.ConfigureAddressWritesStation : Prop :=
  (∀ a : Byte, encode (.cfgAddr a) = .word (0x34000000#32 ||| a.setWidth 32)) ∧
  ∀ (s : State) (a : Byte), exec (.cfgAddr a) s = .next { s with ser := { s.ser with stationAddr := a } }

/-- R108: READ_HOLDING is the trace it stands for, silence and then its eight bytes, from every state. -/
def Obligations.ReadHoldingIsItsTrace : Prop :=
  (∀ (s : State) (a : Byte) (r n : Half) (l h : Byte),
    runOps (rxFrame [a, 0x03#8, r.extractLsb' 8 8, r.extractLsb' 0 8,
        n.extractLsb' 8 8, n.extractLsb' 0 8, l, h]) s = exec (.readHolding a r n l h) s) ∧
  (∀ (s : State) (a : Byte) (r n : Half) (l h : Byte),
    h ++ l = crc16 [a, 0x03#8, r.extractLsb' 8 8, r.extractLsb' 0 8, n.extractLsb' 8 8,
      n.extractLsb' 0 8] →
    runOps (readHoldingTrace a r n) s = exec (.readHolding a r n l h) s)

/-- R100, R187: what a request leaves for validation, in the states that take one; in VALIDATING and
RESPONDING its bytes are discarded (R188). READ_HOLDING is the expansion of R108, so a silence comes before its
first byte (log 5): it starts a frame in IDLE whatever `lineIdle` was, and abandons a partial one. -/
def Obligations.ReadHoldingIsReceived : Prop :=
  (∀ (a : Byte) (r n : Half) (l h : Byte),
    encode (.readHolding a r n l h) = .frame (a ++ 0x03#8 ++ r ++ n ++ l ++ h)) ∧
  (∀ (s : State) (a : Byte) (r n : Half) (l h : Byte),
    s.ser.fState = .idle ∨ s.ser.fState = .receiving →
    exec (.readHolding a r n l h) s = .next { s with ser := { s.ser with
      fState := .validating, lineIdle := false, rxCount := 8#4, ignore := a != s.ser.stationAddr,
      frmAddr := a, frmFunc := 0x03#8, startReg := r, regCount := n, rxCrc := h ++ l,
      runningCrc := crc16 [a, 0x03#8, r.extractLsb' 8 8, r.extractLsb' 0 8, n.extractLsb' 8 8,
        n.extractLsb' 0 8] } }) ∧
  (∀ (s : State) (a : Byte) (r n : Half) (l h : Byte),
    s.ser.fState = .validating ∨ s.ser.fState = .responding →
    exec (.readHolding a r n l h) s = .next { s with ser := { s.ser with lineIdle := false } })

/-- R191, with R186, R187, R193 and R109: eight bytes after a silence are answered exactly when the address matches, the function
code is 0x03, the count is at most 125 and the CRC is right; otherwise the engine is idle again. Either
way the poll that decides sends nothing. -/
def Obligations.FrameAnsweredIffValid : Prop :=
  ∀ (s : State) (b0 b1 b2 b3 b4 b5 b6 b7 : Byte) (t : Half),
    s.ser.fState = .idle ∨ s.ser.fState = .receiving →
    ∃ u, runOps (rxFrame [b0, b1, b2, b3, b4, b5, b6, b7] ++ [.serPoll t]) s = .next u ∧ u.tx = s.tx ∧
      (u.ser.fState = .responding ↔
        b0 = s.ser.stationAddr ∧ b1 = 0x03#8 ∧ b4.toNat * 256 + b5.toNat ≤ 125 ∧
        b7 ++ b6 = crc16 [b0, b1, b2, b3, b4, b5]) ∧
      (u.ser.fState ≠ .responding → u.ser.fState = .idle)

/-- R199, the round trip: a correct request for n registers is answered by exactly 5 + 2·n bytes, one a
poll after the poll that validates: the response frame (R101) over the telemetry values at the moments
their high bytes were emitted, whose CRC validates. TX_GUARD then ends it. -/
def Obligations.RequestRoundTrip : Prop :=
  ∀ (s : State) (a : Byte) (r n : Half) (ts vals : List Half),
    s.ser.fState = .idle ∨ s.ser.fState = .receiving → s.ser.stationAddr = a → n.toNat ≤ 125 →
    ts.length = 1 + (5 + 2 * n.toNat) →
    vals = (List.range n.toNat).map (fun j =>
      if r + BitVec.ofNat 16 j ∈ s.cfg.telemetryDefined then ts.getD (4 + 2 * j) 0#16 else 0#16) →
    ∃ t, runOps (readHoldingTrace a r n ++ ts.map .serPoll) s = .next t ∧
      t.tx = (responseFrame a 0x03#8 vals).reverse ++ s.tx ∧
      (responseFrame a 0x03#8 vals).length = 5 + 2 * n.toNat ∧
      crc16 (responseFrame a 0x03#8 vals) = 0#16 ∧
      exec .txGuard t = .next { t with ser := { t.ser with fState := .idle, lineIdle := true } }

/-- R199, R101, from any state of the invariant: a complete response has L bytes, begins with the echoed
address, 0x03 and the byte count, and its CRC over all bytes is 0. -/
def Obligations.CompleteResponseValidates : Prop :=
  ∀ s : State, SerialInv s.ser s.tx → s.ser.fState = .responding →
    s.ser.cursor.toNat = 3 + 2 * s.ser.regCount.toNat + 2 →
    (s.tx.take s.ser.cursor.toNat).length = 5 + 2 * s.ser.regCount.toNat ∧
    crc16 (s.tx.take s.ser.cursor.toNat).reverse = 0#16 ∧
    (s.tx.take s.ser.cursor.toNat).reverse.take 3 =
      [s.ser.frmAddr, 0x03#8, BitVec.ofNat 8 (2 * s.ser.regCount.toNat)]

/-- Who writes the detector group, the serial group, the fault mask and the outputs (R73, R49): interrupts
and the trap never touch the serial group, and only SER_POLL puts bytes on the line, at most one. No
operation writes the configuration or the operations to come; these and the bytes sent are fields of the
model's own (log 1, log 7, log 15), and that RESET keeps them is the model's choice (log 14). -/
def Obligations.OtherGroupsHaveTheirWriters : Prop :=
  ∀ (i : Instr) (s t : State), exec i s = .next t →
    t.cfg = s.cfg ∧ t.inputs = s.inputs ∧
    (t.tx ≠ s.tx → (∃ v, i = .serPoll v) ∧ ∃ b, t.tx = b :: s.tx) ∧
    (t.fault ≠ s.fault → i = .scTrap ∨ i = .reset) ∧
    (t.ser ≠ s.ser → (∃ b, i = .rxByte b) ∨ i = .rxSilence ∨ (∃ v, i = .serPoll v) ∨ i = .txGuard ∨
      (∃ a, i = .cfgAddr a) ∨ (∃ a r n l h, i = .readHolding a r n l h) ∨ i = .reset) ∧
    (t.press ≠ s.press → i = .tmrOvf ∨ (∃ c o, i = .capEdge c o) ∨ i = .psConsume ∨ i = .psReset ∨
      i = .reset) ∧
    (t.press.ovfCount ≠ s.press.ovfCount → i = .tmrOvf ∨ i = .reset) ∧
    ((t.press.ring ≠ s.press.ring ∨ t.press.filtered ≠ s.press.filtered ∨
      t.press.lastSampleAge ≠ s.press.lastSampleAge) → i = .psConsume ∨ i = .psReset ∨ i = .reset)

/-! ### Reset, trap, faults -/

/-- R260: RESET writes every variable, in any state. -/
def Obligations.ResetWritesEveryVariable : Prop :=
  encode .reset = .word 0xF0000000#32 ∧
  ∀ s : State, ∃ t, exec .reset s = .next t ∧
    t.drive =
      { freq := 0, reqFreq := 0, rotDir := .forward, acc := 0, phaseIndex := 0#8, modDepth := 0#8,
        running := false, bridgeEn := false, subDiv := 0, tick := 0,
        cmp := ⟨s.cfg.halfScale, s.cfg.halfScale, s.cfg.halfScale⟩ } ∧
    t.press =
      { ovfCount := 0#16, lastCaptureTime := 0#32, rawDelta := 0#32, pending := false, ring := ⟨0, 0, 0⟩,
        ringIdx := 0, filtered := 0#32, lastSampleAge := 0 } ∧
    t.ser =
      { fState := .idle, lineIdle := false, rxCount := 0#4, ignore := false, frmAddr := 0#8,
        frmFunc := 0#8, startReg := 0#16, regCount := 0#16, runningCrc := 0xFFFF#16, rxCrc := 0#16,
        cursor := 0#8, regLatch := 0#16, stationAddr := s.cfg.addrDefault } ∧
    t.fault = 0#8

/-- R236, with the short-circuit bit at its FAULT_BIT position (R7, log 17), which is 0 in the order of R107. -/
def Obligations.TrapDisablesBridgeAndLatches : Prop :=
  encode .scTrap = .word 0xF1000000#32 ∧
  (∀ s : State, exec .scTrap s = .next
    { s with
      drive := { s.drive with bridgeEn := false }
      fault := s.fault ||| (1#8 <<< s.cfg.faultBit.shortCircuit.val) }) ∧
  (∀ s : State, s.cfg.faultBit = .listOrder → exec .scTrap s = .next
    { s with drive := { s.drive with bridgeEn := false }, fault := s.fault ||| 1#8 })

/-- R237: once latched, the short-circuit bit survives every step but the one that runs RESET, the
environment's fault writes among them (an input of the model, log 16). -/
def Obligations.LatchClearedOnlyByReset : Prop :=
  ∀ s t : State, s.fault.getLsbD s.cfg.faultBit.shortCircuit = true → step s = .next t →
    (∀ rest, s.inputs ≠ .word 0xF0000000#32 :: rest) →
    t.fault.getLsbD s.cfg.faultBit.shortCircuit = true

/-- R237, R268, R269: under the environment's premise "no DRV_START while `fault` ≠ 0", every step keeps
"a latched short circuit has the bridge off"; and without it a DRV_START breaks it, by design (R269). -/
def Obligations.InterlockHoldsUnderPremise : Prop :=
  (∀ s t : State, BridgeInterlock s → step s = .next t →
    (∀ x rest i, s.inputs = x :: rest → decodeInput x = some (.ok i) → StartsOnlyFaultFree i s) →
    BridgeInterlock t) ∧
  (∀ s : State, s.fault.getLsbD s.cfg.faultBit.shortCircuit = true →
    ∃ t, exec .drvStart s = .next t ∧ t.drive.bridgeEn = true ∧ t.fault = s.fault)

/-- The invariant of Safety.lean: every step keeps it, whatever is issued. -/
def Obligations.StepKeepsInvariant : Prop :=
  ∀ s t : State, Inv s → step s = .next t → Inv t

/-- Under the invariant a step is refused only for a reserved word, and never faults: every operation the
environment can issue runs (R246, R265). -/
def Obligations.OnlyReservedWordsStop : Prop :=
  ∀ s : State, Inv s →
    (∃ t, step s = .next t) ∨ ∃ why w rest, s.inputs = .word w :: rest ∧ decodeWord w = .error why

/-- The invariant holds after reset, under every valid configuration. -/
def Obligations.ResetMeetsInvariant : Prop :=
  ∀ c : Config, configValid c = true → Inv (State.resetFor c)

/-! ### The environment's documented rules, as the second agent of Machine/Environment.lean holds them (log 25)

That a pass decides on one state, before its operations run, is the model's choice (log 35). -/

/-- R240, S4 of 95_test_vectors: a bit set at tick T whose condition is false at every later evaluation
stays set for QUIET ticks and is cleared at the first evaluation after them. In a pass, on the bits that stand
in `fault`: a true condition sets its bit and stamps it; a false one keeps the stamp, and keeps the bit only
if it stands there and its window is not exceeded; the short-circuit bit stays (R237). That this goes on while
ignore-faults is set is the model's choice (log 36). -/
def Obligations.DebounceWindow : Prop :=
  (∀ (e : EnvConfig) (w T k : Nat) (d : Debounced), k < 2 ^ w →
    (((List.range k).map (fun j => (T + (j + 1)) % 2 ^ w)).foldl
      (fun b tick => b.eval e w tick false) (d.eval e w (T % 2 ^ w) true)).isSet = decide (k ≤ e.quiet)) ∧
  (∀ (e : EnvConfig) (r : EnvReadings) (s : State) (v : EnvState) (k : FaultKind),
    configValid s.cfg = true →
    (k = .shortCircuit →
      faultSet s.cfg.faultBit (envPass e r s v).mask k = faultSet s.cfg.faultBit s.fault k) ∧
    (condition e r s k = true →
      faultSet s.cfg.faultBit (envPass e r s v).mask k = true ∧
      (envPass e r s v).env.setTimes.get k = s.drive.tick) ∧
    (k ≠ .shortCircuit → condition e r s k = false →
      (faultSet s.cfg.faultBit (envPass e r s v).mask k = true ↔
        faultSet s.cfg.faultBit s.fault k = true ∧
          ((s.drive.tick : Int) - v.setTimes.get k) % (2 ^ s.cfg.tickW : Int) ≤ e.quiet) ∧
      (envPass e r s v).env.setTimes.get k = v.setTimes.get k))

/-- R222, R224: every DRV_SETREQ a pass issues is 0 or lies in [minFrequency, maxFrequency], whatever way the
division by 4 rounds, and is 0 under any visible fault; and where that division is exact and the sum within
the limits, it is R222's sum. -/
def Obligations.RequestWithinLimits : Prop :=
  (∀ (e : EnvConfig) (r : EnvReadings) (s : State) (v : EnvState) (x : Half),
    e.minFrequency ≤ e.maxFrequency → e.maxFrequency < 2 ^ 16 → .drvSetreq x ∈ (envPass e r s v).ops →
    (x = 0#16 ∨ (e.minFrequency ≤ x.toNat ∧ x.toNat ≤ e.maxFrequency)) ∧
    (visibleFault e (envPass e r s v).mask ≠ 0#8 → x = 0#16)) ∧
  (∀ x : Rat, x / 4 - 1 < quarter x ∧ (quarter x : Rat) < x / 4 + 1) ∧
  (∀ (e : EnvConfig) (p : Rat) (g : Regulator) (n : Nat), g.regulating = true →
    (g.pressureOff - p) / 4 = (((n : Int) - e.baseFrequency : Int) : Rat) →
    e.minFrequency ≤ n → n ≤ e.maxFrequency → requestOf e p g = BitVec.ofNat 16 n)

/-- R241, R225: with a fault bit standing after the evaluation and the override clear, a pass of the
environment requests 0, never starts the bridge, and stops it if it runs; a latched short circuit and every
true condition leave such a bit. The pass gates whether or not it invokes the regulator (log 34). -/
def Obligations.FaultForcesImmediateStop : Prop :=
  (∀ (e : EnvConfig) (r : EnvReadings) (s : State) (v : EnvState), e.ignoreFaults = false →
    (envPass e r s v).mask ≠ 0#8 →
    (envPass e r s v).ops =
      [.psConsume, .drvSetreq 0#16] ++ (if s.drive.running then [.drvStop] else [])) ∧
  (∀ (e : EnvConfig) (r : EnvReadings) (s : State) (v : EnvState), configValid s.cfg = true →
    (faultSet s.cfg.faultBit s.fault .shortCircuit = true ∨ ∃ k, condition e r s k = true) →
    (envPass e r s v).mask ≠ 0#8)

/-- R227, S6: pressure at or above the "off" threshold, not regulating, no flow, nothing requested: a pass
issues no DRV_START and no request but 0, and the regulator stays off, so the next pass is like it. The pass
gates whether or not it invokes the regulator (log 34). -/
def Obligations.HighPressureNeverStarts : Prop :=
  ∀ (e : EnvConfig) (r : EnvReadings) (s : State) (v : EnvState), v.regulator.regulating = false →
    r.flowSensed = false → v.regulator.pressureOn ≤ v.regulator.pressureOff →
    v.regulator.pressureOff ≤ actualPressure e (consumeStep s.cfg s.drive.tick s.press) →
    s.drive.running = false → s.drive.reqFreq = 0 →
    ((envPass e r s v).ops = [.psConsume] ∨ (envPass e r s v).ops = [.psConsume, .drvSetreq 0#16]) ∧
    (envPass e r s v).env.regulator = v.regulator

/-! ### What becomes of every delta, and when the regulator runs -/

/-- R166, R168 to R170, under the premise "no CAP_EDGE while `pending` = 1": every operation keeps it that each
delta recorded since the last RESET or PS_RESET has gone through the plausibility check into the ring, but
for a pending last one; and the filtered value is the median of the last three accepted of them, zeros
standing for missing ones. -/
def Obligations.EveryDeltaReachesTheFilter : Prop :=
  (∀ (s t : State) (i : Instr) (ds : List Word), SampleHistory s ds → NoCaptureWhilePending i s →
    exec i s = .next t → SampleHistory t (deltasAfter i s ds)) ∧
  (∀ c : Config, SampleHistory (State.resetFor c) []) ∧
  (∀ (s : State) (ds rest : List Word) (x y z : Word), SampleHistory s ds → s.press.pending = false →
    (ds.filter (plausible s.cfg)).reverse ++ [0#32, 0#32, 0#32] = x :: y :: z :: rest →
    s.press.filtered = median3 x y z)

/-- R220, R221, R222: a pass without an accepted sample and without the idle tick leaves the regulator alone
and issues no request under no fault; with either it issues one. While regulating, before the on-time has
elapsed or with flow sensed, an invocation neither stops the drive nor ends regulating, where the stop
frequency lies below the minimum. A stop leaves the regulator at its defaults; what a start leaves is the
model's choice (log 33), and so is it that a pass which leaves the regulator alone may still start or stop the
drive (log 34). -/
def Obligations.RegulatorFollowsSamples : Prop :=
  (∀ (e : EnvConfig) (r : EnvReadings) (s : State) (v : EnvState),
    sampleAccepted s = false → r.idleTick = false → visibleFault e (envPass e r s v).mask = 0#8 →
    (∀ x, .drvSetreq x ∉ (envPass e r s v).ops) ∧
    (.drvStart ∉ (envPass e r s v).ops → .drvStop ∉ (envPass e r s v).ops →
      (envPass e r s v).env.regulator = v.regulator)) ∧
  (∀ (e : EnvConfig) (r : EnvReadings) (s : State) (v : EnvState),
    (s.press.pending = true ∧ s.cfg.periodMin ≤ s.press.rawDelta.toNat ∧
      s.press.rawDelta.toNat ≤ s.cfg.periodMax) ∨ r.idleTick = true →
    ∃ x, .drvSetreq x ∈ (envPass e r s v).ops) ∧
  (∀ (e : EnvConfig) (r : EnvReadings) (s : State) (v : EnvState),
    sampleAccepted s = true ∨ r.idleTick = true → visibleFault e (envPass e r s v).mask = 0#8 →
    v.regulator.regulating = true →
    ((s.drive.tick : Int) - v.regulator.regStartTime < v.regulator.stopDelay ∨ r.flowSensed = true) →
    e.stopFrequency < e.minFrequency → e.minFrequency ≤ e.maxFrequency → e.maxFrequency < 2 ^ 16 →
    16 ≤ s.cfg.freqW →
    .drvStop ∉ (envPass e r s v).ops ∧ (envPass e r s v).env.regulator.regulating = true) ∧
  (∀ (e : EnvConfig) (r : EnvReadings) (s : State) (v : EnvState),
    (.drvStop ∈ (envPass e r s v).ops →
      (envPass e r s v).env.regulator = { v.regulator with regulating := false, regStartTime := 0 }) ∧
    (.drvStart ∈ (envPass e r s v).ops → (envPass e r s v).env.regulator.regulating = true →
      (envPass e r s v).env.regulator = { v.regulator with regulating := true, regStartTime := s.drive.tick }))
end

