-- ==== Sys2Proof/Laws/State.lean ====
section
/-! SUPPORT. One lemma per field per update of State and of its groups' shared updates, so that no proof unfolds a
record update. -/

namespace Sys2Proof.Machine

@[simp] theorem State.withDrive_cfg (s : State) (d : Drive) : (s.withDrive d).cfg = s.cfg := rfl
@[simp] theorem State.withDrive_drive (s : State) (d : Drive) : (s.withDrive d).drive = d := rfl
@[simp] theorem State.withDrive_press (s : State) (d : Drive) : (s.withDrive d).press = s.press := rfl
@[simp] theorem State.withDrive_ser (s : State) (d : Drive) : (s.withDrive d).ser = s.ser := rfl
@[simp] theorem State.withDrive_fault (s : State) (d : Drive) : (s.withDrive d).fault = s.fault := rfl
@[simp] theorem State.withDrive_inputs (s : State) (d : Drive) : (s.withDrive d).inputs = s.inputs := rfl
@[simp] theorem State.withDrive_tx (s : State) (d : Drive) : (s.withDrive d).tx = s.tx := rfl

@[simp] theorem State.withPress_cfg (s : State) (p : Pressure) : (s.withPress p).cfg = s.cfg := rfl
@[simp] theorem State.withPress_drive (s : State) (p : Pressure) : (s.withPress p).drive = s.drive := rfl
@[simp] theorem State.withPress_press (s : State) (p : Pressure) : (s.withPress p).press = p := rfl
@[simp] theorem State.withPress_ser (s : State) (p : Pressure) : (s.withPress p).ser = s.ser := rfl
@[simp] theorem State.withPress_fault (s : State) (p : Pressure) : (s.withPress p).fault = s.fault := rfl
@[simp] theorem State.withPress_inputs (s : State) (p : Pressure) : (s.withPress p).inputs = s.inputs := rfl
@[simp] theorem State.withPress_tx (s : State) (p : Pressure) : (s.withPress p).tx = s.tx := rfl

@[simp] theorem State.withSer_cfg (s : State) (f : Serial) : (s.withSer f).cfg = s.cfg := rfl
@[simp] theorem State.withSer_drive (s : State) (f : Serial) : (s.withSer f).drive = s.drive := rfl
@[simp] theorem State.withSer_press (s : State) (f : Serial) : (s.withSer f).press = s.press := rfl
@[simp] theorem State.withSer_ser (s : State) (f : Serial) : (s.withSer f).ser = f := rfl
@[simp] theorem State.withSer_fault (s : State) (f : Serial) : (s.withSer f).fault = s.fault := rfl
@[simp] theorem State.withSer_inputs (s : State) (f : Serial) : (s.withSer f).inputs = s.inputs := rfl
@[simp] theorem State.withSer_tx (s : State) (f : Serial) : (s.withSer f).tx = s.tx := rfl

@[simp] theorem State.withFault_cfg (s : State) (m : Byte) : (s.withFault m).cfg = s.cfg := rfl
@[simp] theorem State.withFault_drive (s : State) (m : Byte) : (s.withFault m).drive = s.drive := rfl
@[simp] theorem State.withFault_press (s : State) (m : Byte) : (s.withFault m).press = s.press := rfl
@[simp] theorem State.withFault_ser (s : State) (m : Byte) : (s.withFault m).ser = s.ser := rfl
@[simp] theorem State.withFault_fault (s : State) (m : Byte) : (s.withFault m).fault = m := rfl
@[simp] theorem State.withFault_inputs (s : State) (m : Byte) : (s.withFault m).inputs = s.inputs := rfl
@[simp] theorem State.withFault_tx (s : State) (m : Byte) : (s.withFault m).tx = s.tx := rfl

@[simp] theorem State.withInputs_cfg (s : State) (is : List Input) : (s.withInputs is).cfg = s.cfg := rfl
@[simp] theorem State.withInputs_drive (s : State) (is : List Input) : (s.withInputs is).drive = s.drive := rfl
@[simp] theorem State.withInputs_press (s : State) (is : List Input) : (s.withInputs is).press = s.press := rfl
@[simp] theorem State.withInputs_ser (s : State) (is : List Input) : (s.withInputs is).ser = s.ser := rfl
@[simp] theorem State.withInputs_fault (s : State) (is : List Input) : (s.withInputs is).fault = s.fault := rfl
@[simp] theorem State.withInputs_inputs (s : State) (is : List Input) : (s.withInputs is).inputs = is := rfl
@[simp] theorem State.withInputs_tx (s : State) (is : List Input) : (s.withInputs is).tx = s.tx := rfl

@[simp] theorem State.withTx_cfg (s : State) (bs : List Byte) : (s.withTx bs).cfg = s.cfg := rfl
@[simp] theorem State.withTx_drive (s : State) (bs : List Byte) : (s.withTx bs).drive = s.drive := rfl
@[simp] theorem State.withTx_press (s : State) (bs : List Byte) : (s.withTx bs).press = s.press := rfl
@[simp] theorem State.withTx_ser (s : State) (bs : List Byte) : (s.withTx bs).ser = s.ser := rfl
@[simp] theorem State.withTx_fault (s : State) (bs : List Byte) : (s.withTx bs).fault = s.fault := rfl
@[simp] theorem State.withTx_inputs (s : State) (bs : List Byte) : (s.withTx bs).inputs = s.inputs := rfl
@[simp] theorem State.withTx_tx (s : State) (bs : List Byte) : (s.withTx bs).tx = bs := rfl

theorem State.withDrive_self (s : State) : s.withDrive s.drive = s := rfl
theorem State.withPress_self (s : State) : s.withPress s.press = s := rfl
theorem State.withSer_self (s : State) : s.withSer s.ser = s := rfl

@[simp] theorem Drive.enabled_freq (d : Drive) : d.enabled.freq = d.freq := rfl
@[simp] theorem Drive.enabled_reqFreq (d : Drive) : d.enabled.reqFreq = d.reqFreq := rfl
@[simp] theorem Drive.enabled_rotDir (d : Drive) : d.enabled.rotDir = d.rotDir := rfl
@[simp] theorem Drive.enabled_acc (d : Drive) : d.enabled.acc = d.acc := rfl
@[simp] theorem Drive.enabled_phaseIndex (d : Drive) : d.enabled.phaseIndex = d.phaseIndex := rfl
@[simp] theorem Drive.enabled_modDepth (d : Drive) : d.enabled.modDepth = d.modDepth := rfl
@[simp] theorem Drive.enabled_running (d : Drive) : d.enabled.running = true := rfl
@[simp] theorem Drive.enabled_bridgeEn (d : Drive) : d.enabled.bridgeEn = true := rfl
@[simp] theorem Drive.enabled_subDiv (d : Drive) : d.enabled.subDiv = d.subDiv := rfl
@[simp] theorem Drive.enabled_tick (d : Drive) : d.enabled.tick = d.tick := rfl
@[simp] theorem Drive.enabled_cmp (d : Drive) : d.enabled.cmp = d.cmp := rfl
@[simp] theorem Drive.disabled_freq (d : Drive) : d.disabled.freq = d.freq := rfl
@[simp] theorem Drive.disabled_reqFreq (d : Drive) : d.disabled.reqFreq = d.reqFreq := rfl
@[simp] theorem Drive.disabled_rotDir (d : Drive) : d.disabled.rotDir = d.rotDir := rfl
@[simp] theorem Drive.disabled_acc (d : Drive) : d.disabled.acc = d.acc := rfl
@[simp] theorem Drive.disabled_phaseIndex (d : Drive) : d.disabled.phaseIndex = d.phaseIndex := rfl
@[simp] theorem Drive.disabled_modDepth (d : Drive) : d.disabled.modDepth = d.modDepth := rfl
@[simp] theorem Drive.disabled_running (d : Drive) : d.disabled.running = false := rfl
@[simp] theorem Drive.disabled_bridgeEn (d : Drive) : d.disabled.bridgeEn = false := rfl
@[simp] theorem Drive.disabled_subDiv (d : Drive) : d.disabled.subDiv = d.subDiv := rfl
@[simp] theorem Drive.disabled_tick (d : Drive) : d.disabled.tick = d.tick := rfl
@[simp] theorem Drive.disabled_cmp (d : Drive) : d.disabled.cmp = d.cmp := rfl
@[simp] theorem Drive.bridgeOff_freq (d : Drive) : d.bridgeOff.freq = d.freq := rfl
@[simp] theorem Drive.bridgeOff_reqFreq (d : Drive) : d.bridgeOff.reqFreq = d.reqFreq := rfl
@[simp] theorem Drive.bridgeOff_rotDir (d : Drive) : d.bridgeOff.rotDir = d.rotDir := rfl
@[simp] theorem Drive.bridgeOff_acc (d : Drive) : d.bridgeOff.acc = d.acc := rfl
@[simp] theorem Drive.bridgeOff_phaseIndex (d : Drive) : d.bridgeOff.phaseIndex = d.phaseIndex := rfl
@[simp] theorem Drive.bridgeOff_modDepth (d : Drive) : d.bridgeOff.modDepth = d.modDepth := rfl
@[simp] theorem Drive.bridgeOff_running (d : Drive) : d.bridgeOff.running = d.running := rfl
@[simp] theorem Drive.bridgeOff_bridgeEn (d : Drive) : d.bridgeOff.bridgeEn = false := rfl
@[simp] theorem Drive.bridgeOff_subDiv (d : Drive) : d.bridgeOff.subDiv = d.subDiv := rfl
@[simp] theorem Drive.bridgeOff_tick (d : Drive) : d.bridgeOff.tick = d.tick := rfl
@[simp] theorem Drive.bridgeOff_cmp (d : Drive) : d.bridgeOff.cmp = d.cmp := rfl

@[simp] theorem emit_cfg (b : Byte) (s : State) : (emit b s).cfg = s.cfg := rfl
@[simp] theorem emit_drive (b : Byte) (s : State) : (emit b s).drive = s.drive := rfl
@[simp] theorem emit_press (b : Byte) (s : State) : (emit b s).press = s.press := rfl
@[simp] theorem emit_ser (b : Byte) (s : State) : (emit b s).ser = s.ser := rfl
@[simp] theorem emit_fault (b : Byte) (s : State) : (emit b s).fault = s.fault := rfl
@[simp] theorem emit_inputs (b : Byte) (s : State) : (emit b s).inputs = s.inputs := rfl
@[simp] theorem emit_tx (b : Byte) (s : State) : (emit b s).tx = b :: s.tx := rfl
@[simp] theorem takeTrap_cfg (s : State) : (takeTrap s).cfg = s.cfg := rfl
@[simp] theorem takeTrap_drive (s : State) : (takeTrap s).drive = s.drive.bridgeOff := rfl
@[simp] theorem takeTrap_press (s : State) : (takeTrap s).press = s.press := rfl
@[simp] theorem takeTrap_ser (s : State) : (takeTrap s).ser = s.ser := rfl
@[simp] theorem takeTrap_fault (s : State) : (takeTrap s).fault = setFault s.cfg.faultBit s.fault .shortCircuit := rfl
@[simp] theorem takeTrap_inputs (s : State) : (takeTrap s).inputs = s.inputs := rfl
@[simp] theorem takeTrap_tx (s : State) : (takeTrap s).tx = s.tx := rfl
@[simp] theorem envWriteFaults_cfg (mask : Byte) (s : State) : (envWriteFaults mask s).cfg = s.cfg := rfl
@[simp] theorem envWriteFaults_drive (mask : Byte) (s : State) : (envWriteFaults mask s).drive = s.drive := rfl
@[simp] theorem envWriteFaults_press (mask : Byte) (s : State) : (envWriteFaults mask s).press = s.press := rfl
@[simp] theorem envWriteFaults_ser (mask : Byte) (s : State) : (envWriteFaults mask s).ser = s.ser := rfl
@[simp] theorem envWriteFaults_fault (mask : Byte) (s : State) : (envWriteFaults mask s).fault = mergeEnvFaults s.cfg.faultBit s.fault mask := rfl
@[simp] theorem envWriteFaults_inputs (mask : Byte) (s : State) : (envWriteFaults mask s).inputs = s.inputs := rfl
@[simp] theorem envWriteFaults_tx (mask : Byte) (s : State) : (envWriteFaults mask s).tx = s.tx := rfl
@[simp] theorem issue_cfg (i : Input) (s : State) : (issue i s).cfg = s.cfg := rfl
@[simp] theorem issue_drive (i : Input) (s : State) : (issue i s).drive = s.drive := rfl
@[simp] theorem issue_press (i : Input) (s : State) : (issue i s).press = s.press := rfl
@[simp] theorem issue_ser (i : Input) (s : State) : (issue i s).ser = s.ser := rfl
@[simp] theorem issue_fault (i : Input) (s : State) : (issue i s).fault = s.fault := rfl
@[simp] theorem issue_inputs (i : Input) (s : State) : (issue i s).inputs = i :: s.inputs := rfl
@[simp] theorem issue_tx (i : Input) (s : State) : (issue i s).tx = s.tx := rfl

end Sys2Proof.Machine
end

