-- ==== Sys2Proof/Laws/Ops.lean ====
section
/-! SUPPORT. What the shared operations do: truncation, files of three, byte fields, fault bits. -/

namespace Sys2Proof.Machine

theorem fit_of_lt {w n : Nat} (h : n < 2 ^ w) : fit w n = n := Nat.mod_eq_of_lt h

theorem fit_lt (w n : Nat) : fit w n < 2 ^ w := Nat.mod_lt _ (by positivity)

theorem maxProduct_eq : maxProduct = 31877 := rfl

/-- The configuration check as arithmetic (R139; log 8, log 17). -/
theorem configValid_iff (c : Config) :
    configValid c = true ↔
      1 ≤ c.rampDiv ∧ (31877 + 2 ^ c.modShift - 1) / 2 ^ c.modShift ≤ c.halfScale ∧
        c.halfScale + 31877 / 2 ^ c.modShift < 2 ^ c.cmpW ∧ c.faultBit.positions.Nodup := by
  simp only [configValid, Bool.and_eq_true, decide_eq_true_eq, and_assoc]
  exact Iff.rfl

@[simp] theorem File3.get_set_self {α : Type} (f : File3 α) (i : Fin 3) (v : α) :
    (f.set i v).get i = v := by
  match i with
  | 0 => rfl
  | 1 => rfl
  | 2 => rfl

/-- A write to a file reaches one register. -/
theorem File3.get_set {α : Type} (f : File3 α) (i j : Fin 3) (v : α) :
    (f.set i v).get j = if j = i then v else f.get j := by
  match i, j with
  | 0, 0 | 0, 1 | 0, 2 | 1, 0 | 1, 1 | 1, 2 | 2, 0 | 2, 1 | 2, 2 => rfl

theorem File3.get_set_of_ne {α : Type} (f : File3 α) {i j : Fin 3} (v : α) (h : j ≠ i) :
    (f.set i v).get j = f.get j := by
  simp [File3.get_set, h]

/-- The high and low part of a concatenation, as numbers. -/
theorem toNat_append {m n : Nat} (x : BitVec m) (y : BitVec n) :
    (x ++ y).toNat = x.toNat * 2 ^ n + y.toNat := by
  rw [BitVec.toNat_append, ← Nat.shiftLeft_add_eq_or_of_lt y.isLt, Nat.shiftLeft_eq]

@[simp] theorem hiByte_append (a b : Byte) : hiByte (a ++ b) = a := by
  apply BitVec.eq_of_toNat_eq
  have := toNat_append a b
  simp only [hiByte, BitVec.extractLsb'_toNat, Nat.shiftRight_eq_div_pow]
  omega

@[simp] theorem loByte_append (a b : Byte) : loByte (a ++ b) = b := by
  apply BitVec.eq_of_toNat_eq
  have := toNat_append a b
  simp only [loByte, BitVec.extractLsb'_toNat, Nat.shiftRight_eq_div_pow]
  omega

@[simp] theorem hi_append_lo (v : Half) : hiByte v ++ loByte v = v := by
  apply BitVec.eq_of_toNat_eq
  rw [toNat_append]
  simp only [hiByte, loByte, BitVec.extractLsb'_toNat, Nat.shiftRight_eq_div_pow]
  omega

@[simp] theorem hiByte_setHi (v : Half) (b : Byte) : hiByte (setHi v b) = b := hiByte_append ..
@[simp] theorem loByte_setHi (v : Half) (b : Byte) : loByte (setHi v b) = loByte v := loByte_append ..
@[simp] theorem hiByte_setLo (v : Half) (b : Byte) : hiByte (setLo v b) = hiByte v := hiByte_append ..
@[simp] theorem loByte_setLo (v : Half) (b : Byte) : loByte (setLo v b) = b := loByte_append ..

/-- Two faults share a position only if they are one, in a valid configuration (log 17). -/
theorem bit_injective {b : FaultBits} (hb : b.positions.Nodup) {j k : FaultKind} (h : k.bit b = j.bit b) :
    k = j := by
  simp only [FaultBits.positions, List.nodup_cons, List.mem_cons, List.not_mem_nil, or_false, not_or] at hb
  cases j <;> cases k <;> simp_all [FaultKind.bit]

/-- A write of one fault's bit reaches the bit at its position. -/
theorem getLsbD_writeFault (b : FaultBits) (m : Byte) (k : FaultKind) (v : Bool) (i : Fin 8) :
    (writeFault b m k v).getLsbD i = if i = k.bit b then v else m.getLsbD i := by
  have hi := i.isLt
  have hk := (k.bit b).isLt
  by_cases e : i = k.bit b
  · subst e
    cases v <;> simp [writeFault, setFault, clearFault]
  · have e' : i.val ≠ (k.bit b).val := fun h => e (Fin.ext h)
    cases v <;> simp [writeFault, setFault, clearFault, e] <;> omega

/-- A write of one fault's bit writes it and keeps every other. -/
theorem faultSet_writeFault {b : FaultBits} (hb : b.positions.Nodup) (m : Byte) (j k : FaultKind) (v : Bool) :
    faultSet b (writeFault b m k v) j = if j = k then v else faultSet b m j := by
  unfold faultSet
  rw [getLsbD_writeFault]
  by_cases e : j = k
  · simp [e]
  · rw [if_neg e, if_neg fun h => e (bit_injective hb h)]

/-- Setting a fault's bit sets it. -/
theorem faultSet_setFault_self (b : FaultBits) (m : Byte) (k : FaultKind) :
    faultSet b (setFault b m k) k = true := by
  simpa [writeFault, faultSet] using getLsbD_writeFault b m k true (k.bit b)

/-- Setting a fault's bit clears none. -/
theorem faultSet_setFault_of_set (b : FaultBits) {m : Byte} {j : FaultKind} (k : FaultKind)
    (h : faultSet b m j = true) : faultSet b (setFault b m k) j = true := by
  have := getLsbD_writeFault b m k true (j.bit b)
  simp only [writeFault, if_true] at this
  simp only [faultSet] at *
  rw [this, h]
  simp

/-- The environment's write leaves the block's bit alone. -/
theorem shortCircuit_mergeEnvFaults (b : FaultBits) (m mask : Byte) :
    faultSet b (mergeEnvFaults b m mask) .shortCircuit = faultSet b m .shortCircuit := by
  unfold mergeEnvFaults faultSet
  rw [getLsbD_writeFault, if_pos rfl]

end Sys2Proof.Machine
end

