-- ==== Sys2Proof/Laws/Crc.lean ====
section
/-! SUPPORT. The CRC update is linear over exclusive or; its effect on a value with an empty low byte, and on a
byte. -/

namespace Sys2Proof.Machine

theorem crcBit_xor (x y : Half) : crcBit (x ^^^ y) = crcBit x ^^^ crcBit y := by
  have e : ∀ a b : Half, a ^^^ crcPoly ^^^ (b ^^^ crcPoly) = a ^^^ b := by
    intro a b
    rw [BitVec.xor_assoc, BitVec.xor_comm b, ← BitVec.xor_assoc crcPoly, BitVec.xor_self, BitVec.zero_xor]
  unfold crcBit
  rw [BitVec.getLsbD_xor]
  cases x.getLsbD 0 <;> cases y.getLsbD 0 <;> simp [BitVec.ushiftRight_xor_distrib, e]
  · rw [BitVec.xor_assoc]
  · rw [BitVec.xor_assoc, BitVec.xor_comm (y >>> 1), ← BitVec.xor_assoc]

/-- The bit steps are linear (R182). -/
theorem crcBits_xor (n : Nat) (x y : Half) : crcBits n (x ^^^ y) = crcBits n x ^^^ crcBits n y := by
  induction n generalizing x y with
  | zero => rfl
  | succ n ih => simp only [crcBits, crcBit_xor, ih]

/-- Eight bit steps move a high byte down unchanged. -/
theorem crcBits_high (h : Byte) : crcBits 8 (h ++ 0#8) = h.setWidth 16 := by
  revert h
  decide

/-- Eight bit steps on a byte are its CRCTAB entry (R182). -/
theorem crcBits_byte (b : Byte) : crcBits 8 (b.setWidth 16) = crcTab b := by
  revert b
  decide

theorem xor_hi_lo (v : Half) : (hiByte v ++ 0#8 : Half) ^^^ (loByte v).setWidth 16 = v := by
  apply BitVec.eq_of_getLsbD_eq
  intro i hi
  simp only [BitVec.getLsbD_xor, hiByte, loByte, BitVec.getLsbD_setWidth, BitVec.getLsbD_extractLsb']
  have : (v.extractLsb' 8 8 ++ 0#8 : Half).getLsbD i =
      if i < 8 then (0#8).getLsbD i else (v.extractLsb' 8 8).getLsbD (i - 8) := BitVec.getLsbD_append
  rw [this]
  by_cases h : i < 8
  · simp [h, hi]
  · have h1 : i - 8 < 8 := by omega
    have h2 : 8 + (i - 8) = i := by omega
    simp [h, h1, h2]

theorem crcUpdate_append (bs : List Byte) (b : Byte) : crc16 (bs ++ [b]) = crcUpdate (crc16 bs) b := by
  simp [crc16]

@[simp] theorem crc16_nil : crc16 [] = crcInit := rfl

end Sys2Proof.Machine
end

