-- ==== Sys2Proof/Laws/Decode.lean ====
section
/-! SUPPORT. Encoded words and frames as numbers, and when a row of the opcode map is selected. -/

namespace Sys2Proof

open Sys2Proof.Machine (toNat_append)

theorem toNat_word16 (x v : Half) : (x ++ v : Word).toNat = x.toNat * 2 ^ 16 + v.toNat := toNat_append x v
theorem toNat_word8 (x : BitVec 24) (b : Byte) : (x ++ b : Word).toNat = x.toNat * 2 ^ 8 + b.toNat :=
  toNat_append x b
theorem toNat_word2 (x : BitVec 30) (p : BitVec 2) : (x ++ p : Word).toNat = x.toNat * 2 ^ 2 + p.toNat :=
  toNat_append x p
theorem toNat_word1 (x : BitVec 31) (d : BitVec 1) : (x ++ d : Word).toNat = x.toNat * 2 ^ 1 + d.toNat :=
  toNat_append x d
theorem toNat_wordCap (x : BitVec 15) (o : BitVec 1) (c : Half) :
    (x ++ o ++ c : Word).toNat = (x.toNat * 2 ^ 1 + o.toNat) * 2 ^ 16 + c.toNat := by
  rw [← toNat_append x o]; exact toNat_append (x ++ o) c

/-- Two bytes of a field. -/
theorem toNat_half (a b : Byte) : (a ++ b : Half).toNat = a.toNat * 2 ^ 8 + b.toNat := toNat_append a b

/-- A request frame as one number, byte 0 first (R100). -/
theorem toNat_frame (a f : Byte) (s n : Half) (l h : Byte) :
    (a ++ f ++ s ++ n ++ l ++ h : FrameBits).toNat =
      ((((a.toNat * 2 ^ 8 + f.toNat) * 2 ^ 16 + s.toNat) * 2 ^ 16 + n.toNat) * 2 ^ 8 + l.toNat) * 2 ^ 8
        + h.toNat := by
  rw [← toNat_append a f, ← toNat_append (a ++ f) s, ← toNat_append (a ++ f ++ s) n,
    ← toNat_append (a ++ f ++ s ++ n) l]
  exact toNat_append (a ++ f ++ s ++ n ++ l) h

theorem toNat_frame8 (b0 b1 b2 b3 b4 b5 b6 b7 : Byte) :
    (b0 ++ b1 ++ b2 ++ b3 ++ b4 ++ b5 ++ b6 ++ b7 : FrameBits).toNat =
      ((((((b0.toNat * 2 ^ 8 + b1.toNat) * 2 ^ 8 + b2.toNat) * 2 ^ 8 + b3.toNat) * 2 ^ 8 + b4.toNat) * 2 ^ 8
        + b5.toNat) * 2 ^ 8 + b6.toNat) * 2 ^ 8 + b7.toNat := by
  rw [← toNat_append b0 b1, ← toNat_append (b0 ++ b1) b2, ← toNat_append (b0 ++ b1 ++ b2) b3,
    ← toNat_append (b0 ++ b1 ++ b2 ++ b3) b4, ← toNat_append (b0 ++ b1 ++ b2 ++ b3 ++ b4) b5,
    ← toNat_append (b0 ++ b1 ++ b2 ++ b3 ++ b4 ++ b5) b6]
  exact toNat_append (b0 ++ b1 ++ b2 ++ b3 ++ b4 ++ b5 ++ b6) b7

theorem fixedAbove_iff (w : Word) (lo v : Nat) : fixedAbove w lo v = true ↔ w.toNat / 2 ^ lo = v := by
  simp [fixedAbove, Nat.shiftRight_eq_div_pow]

theorem fixedAbove_eq_false_iff (w : Word) (lo v : Nat) :
    fixedAbove w lo v = false ↔ w.toNat / 2 ^ lo ≠ v := by
  simp [fixedAbove, Nat.shiftRight_eq_div_pow]

theorem frameByte_toNat (f : FrameBits) (k : Nat) :
    (frameByte f k).toNat = f.toNat / 2 ^ (56 - 8 * k) % 2 ^ 8 := by
  simp [frameByte, Nat.shiftRight_eq_div_pow]

end Sys2Proof
end

