-- ==== Sys2Proof/Laws/Detector.lean ====
section
/-! SUPPORT. What the detector's shared operations do: the timestamp as a number, and the three outcomes of
a consumption. -/

namespace Sys2Proof.Machine

/-- The timestamp as a number (R65). -/
theorem timestamp_toNat (hi c : Half) : (timestamp hi c).toNat = hi.toNat * 2 ^ 16 + c.toNat :=
  toNat_append hi c

/-- A consumption does nothing, discards the sample, or accepts it (R168, R169). -/
theorem consumeStep_cases (cfg : Config) (tick : Nat) (p : Pressure) :
    (p.pending = false ∧ consumeStep cfg tick p = p) ∨
    (p.pending = true ∧ plausible cfg p.rawDelta = false ∧
      consumeStep cfg tick p = { p with pending := false }) ∨
    (p.pending = true ∧ plausible cfg p.rawDelta = true ∧
      consumeStep cfg tick p = acceptSample tick { p with pending := false }) := by
  unfold consumeStep
  cases hp : p.pending
  · exact .inl ⟨rfl, rfl⟩
  · cases hq : plausible cfg p.rawDelta
    · exact .inr (.inl ⟨rfl, rfl, rfl⟩)
    · exact .inr (.inr ⟨rfl, rfl, rfl⟩)

/-- Both ends of the range are plausible (R169). -/
theorem plausible_iff (cfg : Config) (d : Word) :
    plausible cfg d = true ↔ cfg.periodMin ≤ d.toNat ∧ d.toNat ≤ cfg.periodMax := by
  simp [plausible]

end Sys2Proof.Machine
end

