-- ==== Sys2Proof/Laws/Environment.lean ====
section
/-! SUPPORT. What the environment's functions do: the evaluated mask bit by bit, the regulator's request, and the
operations of a pass. -/

namespace Sys2Proof.Machine

/-- Writing a list of faults' bits: the last write of a bit stands, which is the only one where each fault stands
once. -/
theorem faultSet_foldl_writeFault {b : FaultBits} (hb : b.positions.Nodup) (f : FaultKind → Bool) (j : FaultKind) :
    ∀ (ks : List FaultKind) (m : Byte), ks.Nodup →
      faultSet b (ks.foldl (fun m k => writeFault b m k (f k)) m) j = if j ∈ ks then f j else faultSet b m j := by
  intro ks
  induction ks with
  | nil => intro m _; simp
  | cons k ks ih =>
    intro m h
    obtain ⟨h1, h2⟩ := List.nodup_cons.1 h
    rw [List.foldl_cons, ih _ h2, faultSet_writeFault hb]
    by_cases e : j = k
    · subst e; simp [h1]
    · simp [e]

/-- The evaluated mask: a debounced bit is its evaluation, the short-circuit bit stands (R239, R240). -/
theorem faultSet_evalMask {s : State} (hb : s.cfg.faultBit.positions.Nodup) (e : EnvConfig) (r : EnvReadings)
    (t : SetTimes) (k : FaultKind) :
    faultSet s.cfg.faultBit (evalMask e r s t) k =
      if k = .shortCircuit then faultSet s.cfg.faultBit s.fault k else (evalFault e r s t k).isSet := by
  rw [evalMask, faultSet_foldl_writeFault hb _ _ _ _ (by decide)]
  cases k <;> rfl

/-- The new stamp of a debounced fault is its evaluation's. -/
theorem get_evalSetTimes (e : EnvConfig) (r : EnvReadings) (s : State) (t : SetTimes) {k : FaultKind}
    (hk : k ≠ .shortCircuit) : (evalSetTimes e r s t).get k = (evalFault e r s t k).setTime := by
  cases k <;> first | rfl | exact absurd rfl hk

/-- A mask with some bit set is not 0. -/
theorem ne_zero_of_faultSet {b : FaultBits} {m : Byte} {k : FaultKind} (h : faultSet b m k = true) : m ≠ 0 := by
  rintro rfl
  simp [faultSet] at h

theorem elapsed_cast (w now stamp : Nat) :
    (elapsed w now stamp : Int) = ((now : Int) - stamp) % (2 ^ w : Int) :=
  Int.toNat_of_nonneg (Int.emod_nonneg _ (by positivity))

/-- The division by 4 is within one of the exact quotient (R222). -/
theorem quarter_bounds (x : Rat) : x / 4 - 1 < quarter x ∧ (quarter x : Rat) < x / 4 + 1 := by
  unfold quarter
  split
  · have := Int.le_ceil (x / 4)
    exact ⟨by linarith, Int.ceil_lt_add_one _⟩
  · have := Int.floor_le (x / 4)
    exact ⟨Int.sub_one_lt_floor _, by linarith⟩

/-- Where the division is exact it is the quotient, whatever the free choice. -/
theorem quarter_exact {x : Rat} {n : Int} (h : x / 4 = (n : Rat)) : quarter x = n := by
  have := quarter_bounds x
  rw [h] at this
  have h1 : n - 1 < quarter x := by exact_mod_cast this.1
  have h2 : quarter x < n + 1 := by exact_mod_cast this.2
  omega

/-- The clamp (R222). -/
theorem clampedRequest_range {e : EnvConfig} (h : e.minFrequency ≤ e.maxFrequency) (off p : Rat) :
    e.minFrequency ≤ clampedRequest e off p ∧ clampedRequest e off p ≤ e.maxFrequency := by
  unfold clampedRequest
  generalize e.baseFrequency + quarter (off - p) = q
  omega

/-- The target is 0 when not regulating, and the clamped sum when regulating (R222). -/
theorem toNat_requestOf {e : EnvConfig} (h : e.minFrequency ≤ e.maxFrequency) (h16 : e.maxFrequency < 2 ^ 16)
    (p : Rat) (g : Regulator) :
    (requestOf e p g).toNat = if g.regulating then clampedRequest e g.pressureOff p else 0 := by
  have := (clampedRequest_range h g.pressureOff p).2
  unfold requestOf
  split
  · rw [BitVec.toNat_ofNat, Nat.mod_eq_of_lt (by omega)]
  · rfl

/-- A pass issues a request exactly when `passRequest` has one. -/
theorem drvSetreq_mem_envPass {e : EnvConfig} {r : EnvReadings} {s : State} {v : EnvState} {x : Half} :
    .drvSetreq x ∈ (envPass e r s v).ops ↔
      passRequest e r s (visibleFault e (envPass e r s v).mask) (regulate e r s v.regulator) = some x := by
  show _ ∈ Instr.psConsume :: _ ++ _ ↔ _
  simp only [List.cons_append, List.mem_cons, List.mem_append, Option.mem_toList, Option.map_eq_some_iff,
    reduceCtorEq, false_or]
  constructor
  · rintro (⟨y, h, h'⟩ | ⟨m, -, h⟩)
    · injection h' with h'
      exact h' ▸ h
    · cases m <;> cases h
  · exact fun h => .inl ⟨x, h, rfl⟩

/-- The `reqFreq` a pass leaves and gates with. -/
def passReqFreq (e : EnvConfig) (r : EnvReadings) (s : State) (v : EnvState) : Nat :=
  ((passRequest e r s (visibleFault e (envPass e r s v).mask) (regulate e r s v.regulator)).map
    fun v => fit s.cfg.freqW v.toNat).getD s.drive.reqFreq

/-- The transition a pass makes. -/
def passMove (e : EnvConfig) (r : EnvReadings) (s : State) (v : EnvState) : Option Transition :=
  gate e (visibleFault e (envPass e r s v).mask) s.drive (passReqFreq e r s v)

theorem envPass_regulator (e : EnvConfig) (r : EnvReadings) (s : State) (v : EnvState) :
    (envPass e r s v).env.regulator = (regulate e r s v.regulator).after s.drive.tick (passMove e r s v) := rfl

/-- A pass makes a transition exactly when `passMove` has one. -/
theorem op_mem_envPass {e : EnvConfig} {r : EnvReadings} {s : State} {v : EnvState} {m : Transition} :
    m.op ∈ (envPass e r s v).ops ↔ passMove e r s v = some m := by
  show _ ∈ Instr.psConsume :: _ ++ (Option.map _ (passMove e r s v)).toList ↔ _
  simp only [List.cons_append, List.mem_cons, List.mem_append, Option.mem_toList, Option.map_eq_some_iff]
  constructor
  · rintro (h | ⟨y, -, h⟩ | ⟨m', h, h'⟩)
    · cases m <;> cases h
    · cases m <;> cases h
    · cases m <;> cases m' <;> first | exact h | cases h'
  · exact fun h => .inr (.inr ⟨m, h, rfl⟩)

end Sys2Proof.Machine
end

