-- ==== Sys2Proof/Laws/Serial.lean ====
section
/-! SUPPORT. What the receiver and the transmitter do: a whole frame received in each frame state, one poll, and
traces of operations. -/

namespace Sys2Proof.Machine

/-- The CRC update split into the bytes of the accumulator (R182). -/
theorem crcUpdate_eq (c : Half) (b : Byte) :
    crcUpdate c b = (hiByte c).setWidth 16 ^^^ crcTab (loByte c ^^^ b) := by
  have h : c ^^^ b.setWidth 16 = (hiByte c ++ 0#8 : Half) ^^^ (loByte c ^^^ b).setWidth 16 := by
    conv_lhs => rw [← xor_hi_lo c]
    rw [BitVec.setWidth_xor, BitVec.xor_assoc]
  rw [crcUpdate, h, crcBits_xor, crcBits_high, crcBits_byte]

/-- A frame of eight bytes after a silence, in the states that take one (R185, R186). -/
theorem receiveFrame_of_listening {f : Serial} (h : f.fState = .idle ∨ f.fState = .receiving)
    (b0 b1 b2 b3 b4 b5 b6 b7 : Byte) :
    receiveFrame [b0, b1, b2, b3, b4, b5, b6, b7] f =
      { f with
        fState := .validating, lineIdle := false, rxCount := 8#4
        ignore := b0 != f.stationAddr || b1 != fcRead
        frmAddr := b0, frmFunc := b1, startReg := b2 ++ b3, regCount := b4 ++ b5, rxCrc := b7 ++ b6
        runningCrc := crc16 [b0, b1, b2, b3, b4, b5] } := by
  have hs : (if f.fState = .receiving then FrameState.idle else f.fState) = .idle := by
    rcases h with h | h <;> simp [h]
  have e1 : ∀ v w : Byte, loByte (v ++ w) = w := loByte_append
  have e2 : ∀ v w : Byte, hiByte (v ++ w) = v := hiByte_append
  simp [receiveFrame, silenceStep, hs, rxStep, frameByteStep, startFrame, storeByte, crc16, setHi, setLo,
    e1, e2]

/-- While a frame is validated or answered, received bytes change only `lineIdle` (R188). -/
theorem rxStep_of_busy {f : Serial} (h : f.fState = .validating ∨ f.fState = .responding) (b : Byte) :
    rxStep b f = { f with lineIdle := false } := by
  rcases h with h | h <;> simp [rxStep, h]

theorem foldl_rxStep_of_busy (bs : List Byte) {f : Serial} (h : f.fState = .validating ∨ f.fState = .responding) :
    bs.foldl (fun g b => rxStep b g) { f with lineIdle := false } = { f with lineIdle := false } := by
  induction bs with
  | nil => rfl
  | cons b bs ih =>
    have e : rxStep b { f with lineIdle := false } = { f with lineIdle := false } :=
      rxStep_of_busy (f := { f with lineIdle := false }) h b
    rw [List.foldl_cons, e, ih]

theorem receiveFrame_of_busy {f : Serial} (h : f.fState = .validating ∨ f.fState = .responding) (b : Byte)
    (bs : List Byte) : receiveFrame (b :: bs) f = { f with lineIdle := false } := by
  have e : rxStep b (silenceStep f) = { f with lineIdle := false } := by
    rcases h with h | h <;> simp [rxStep, silenceStep, h]
  rw [receiveFrame, List.foldl_cons, e, foldl_rxStep_of_busy bs h]

/-- A trace runs in two parts. -/
theorem runOps_append {a b : List Instr} {s t : State} (h : runOps a s = .next t) :
    runOps (a ++ b) s = runOps b t := by
  induction a generalizing s with
  | nil => injection h with h; subst h; rfl
  | cons i a ih =>
    simp only [runOps, List.cons_append] at h ⊢
    split at h
    · exact ih h
    · cases h
    · cases h

/-- RX_FRAME is the reception of a frame (R108). -/
theorem runOps_rxFrame (bs : List Byte) (s : State) :
    runOps (rxFrame bs) s = .next (s.withSer (receiveFrame bs s.ser)) := by
  have h : ∀ (bs : List Byte) (s : State),
      runOps (bs.map .rxByte) s = .next (s.withSer (bs.foldl (fun g b => rxStep b g) s.ser)) := by
    intro bs
    induction bs with
    | nil => intro s; rfl
    | cons b bs ih =>
      intro s
      show runOps (bs.map .rxByte) (s.withSer (rxStep b s.ser)) = _
      rw [ih]; rfl
  show runOps (bs.map .rxByte) (s.withSer (silenceStep s.ser)) = _
  rw [h]; rfl

/-- The request frame's bytes when `l`, `h` are its CRC (R100, R183). -/
theorem requestFrame_eq {a l h : Byte} {r n : Half}
    (hc : h ++ l = crc16 [a, fcRead, hiByte r, loByte r, hiByte n, loByte n]) :
    requestFrame a r n = [a, fcRead, hiByte r, loByte r, hiByte n, loByte n, l, h] := by
  have e1 : loByte (h ++ l) = l := loByte_append _ _
  have e2 : hiByte (h ++ l) = h := hiByte_append _ _
  simp only [requestFrame, ← hc, e1, e2]; rfl

/-- What a poll does, by frame state (R192). -/
theorem exec_serPoll_validating {s : State} (t : Half) (h : s.ser.fState = .validating) :
    exec (.serPoll t) s = .next (s.withSer (validateStep s.ser)) := by
  simp only [exec, execSerPoll, h]

theorem exec_serPoll_emit {s : State} (t : Half) (h : s.ser.fState = .responding)
    (hk : s.ser.cursor.toNat < responseLength s.ser) : exec (.serPoll t) s = .next (emitNext t s) := by
  simp only [exec, execSerPoll, h]
  rw [if_pos hk]

theorem exec_serPoll_guard {s : State} (t : Half) (h : s.ser.fState = .responding)
    (hk : ¬ s.ser.cursor.toNat < responseLength s.ser) : exec (.serPoll t) s = .next s := by
  simp only [exec, execSerPoll, h]
  rw [if_neg hk]

end Sys2Proof.Machine
end

