-- ==== Sys2Proof/Laws/Waveform.lean ====
section
/-! SUPPORT. What the engine's shared operations do: the ramp step, the accumulator, the depth, the compare
value, and which fields each part of PWM_CARRIER writes. -/

namespace Sys2Proof.Machine

/-- The entries of the table lie in −127 .. 127 (R61). -/
theorem tableRead_bound (p : Fin 3) (i : Byte) : -127 ≤ tableRead p i ∧ tableRead p i ≤ 127 := by
  revert p i
  decide

/-- One unit toward the request never passes it (R132). -/
theorem toward_cases (f r : Nat) :
    (f < r ∧ toward f r = f + 1) ∨ (r < f ∧ toward f r = f - 1) ∨ (f = r ∧ toward f r = f) := by
  unfold toward
  split
  · exact .inl ⟨‹_›, rfl⟩
  · split
    · exact .inr (.inl ⟨‹_›, rfl⟩)
    · exact .inr (.inr ⟨by omega, rfl⟩)

theorem toward_lt {f r b : Nat} (hf : f < b) (hr : r < b) : toward f r < b := by
  rcases toward_cases f r with h | h | h <;> omega

theorem accModulus_pos (c : Config) : 0 < accModulus c := by
  unfold accModulus
  positivity

/-- The advance of the accumulator as one integer formula (R133). -/
theorem advanceAcc_int (c : Config) (d : Drive) :
    (advanceAcc c d : Int) =
      (if d.rotDir = .forward then (d.acc : Int) + d.freq else (d.acc : Int) - d.freq) %
        (accModulus c : Int) := by
  unfold advanceAcc
  have hm : (0 : Int) < (accModulus c : Int) := by exact_mod_cast accModulus_pos c
  cases d.rotDir with
  | forward => simp
  | reverse => simpa using Int.emod_nonneg _ hm.ne'

theorem advanceAcc_lt (c : Config) (d : Drive) : advanceAcc c d < accModulus c := by
  have hm : (0 : Int) < (accModulus c : Int) := by exact_mod_cast accModulus_pos c
  have h := advanceAcc_int c d
  have := Int.emod_lt_of_pos
    (if d.rotDir = .forward then (d.acc : Int) + d.freq else (d.acc : Int) - d.freq) hm
  rw [← h] at this
  exact_mod_cast this

/-- The depth is clamped at 251 (R134). -/
theorem depthOf_le (c : Config) (f : Nat) : (depthOf c f).toNat ≤ modMax := by
  unfold depthOf
  rw [BitVec.toNat_ofNat]
  exact le_trans (Nat.mod_le _ _) (min_le_left _ _)

/-! Fields written by each part of PWM_CARRIER. -/

@[simp] theorem carrierStep_reqFreq (c : Config) (d : Drive) : (carrierStep c d).reqFreq = d.reqFreq := by
  simp only [carrierStep, depthStep, angleStep, dividerStep]; split <;> rfl
@[simp] theorem carrierStep_rotDir (c : Config) (d : Drive) : (carrierStep c d).rotDir = d.rotDir := by
  simp only [carrierStep, depthStep, angleStep, dividerStep]; split <;> rfl
@[simp] theorem carrierStep_running (c : Config) (d : Drive) : (carrierStep c d).running = d.running := by
  simp only [carrierStep, depthStep, angleStep, dividerStep]; split <;> rfl
@[simp] theorem carrierStep_bridgeEn (c : Config) (d : Drive) : (carrierStep c d).bridgeEn = d.bridgeEn := by
  simp only [carrierStep, depthStep, angleStep, dividerStep]; split <;> rfl
@[simp] theorem carrierStep_cmp (c : Config) (d : Drive) : (carrierStep c d).cmp = d.cmp := by
  simp only [carrierStep, depthStep, angleStep, dividerStep]; split <;> rfl
@[simp] theorem carrierStep_acc (c : Config) (d : Drive) :
    (carrierStep c d).acc = advanceAcc c (dividerStep c d) := rfl
@[simp] theorem carrierStep_phaseIndex (c : Config) (d : Drive) :
    (carrierStep c d).phaseIndex = indexOf c (advanceAcc c (dividerStep c d)) := rfl
@[simp] theorem carrierStep_modDepth (c : Config) (d : Drive) :
    (carrierStep c d).modDepth = depthOf c (dividerStep c d).freq := rfl
@[simp] theorem carrierStep_freq (c : Config) (d : Drive) :
    (carrierStep c d).freq = (dividerStep c d).freq := rfl
@[simp] theorem carrierStep_subDiv (c : Config) (d : Drive) :
    (carrierStep c d).subDiv = (dividerStep c d).subDiv := rfl
@[simp] theorem carrierStep_tick (c : Config) (d : Drive) :
    (carrierStep c d).tick = (dividerStep c d).tick := rfl

theorem dividerStep_of_eq {c : Config} {d : Drive} (h : d.subDiv + 1 = c.rampDiv) :
    dividerStep c d = rampStep c d := if_pos h

theorem dividerStep_of_ne {c : Config} {d : Drive} (h : d.subDiv + 1 ≠ c.rampDiv) :
    dividerStep c d = { d with subDiv := d.subDiv + 1 } := if_neg h

/-- PWM_CARRIER does not look at the bridge (D14), so the trap's write goes through it. -/
theorem carrierStep_bridgeOff (c : Config) (d : Drive) :
    carrierStep c d.bridgeOff = (carrierStep c d).bridgeOff := by
  have h : dividerStep c d.bridgeOff = (dividerStep c d).bridgeOff := by
    by_cases h : d.subDiv + 1 = c.rampDiv
    · rw [dividerStep_of_eq h, dividerStep_of_eq (d := d.bridgeOff) h]; rfl
    · rw [dividerStep_of_ne h, dividerStep_of_ne (d := d.bridgeOff) h]; rfl
  simp only [carrierStep, h]; rfl

/-- The rounded product lies between the ends of R139, for both roundings. -/
theorem shiftProduct_bound (m : ProductShift) {x : Int} (n : Nat) (h : -31877 ≤ x ∧ x ≤ 31877) :
    -(((31877 + 2 ^ n - 1) / 2 ^ n : Nat) : Int) ≤ shiftProduct m x n ∧
      shiftProduct m x n ≤ ((31877 / 2 ^ n : Nat) : Int) := by
  have hd : (0 : Int) < 2 ^ n := by positivity
  have hdn : 0 < 2 ^ n := by positivity
  have hi : x / 2 ^ n ≤ ((31877 / 2 ^ n : Nat) : Int) := by
    push_cast
    exact Int.ediv_le_ediv hd h.2
  have lo : -(((31877 + 2 ^ n - 1) / 2 ^ n : Nat) : Int) ≤ x / 2 ^ n := by
    rw [Int.le_ediv_iff_mul_le hd]
    have h1 := Nat.lt_div_mul_add hdn (a := 31877 + 2 ^ n - 1)
    have h2 : (((31877 + 2 ^ n - 1 : Nat)) : Int) = 31877 + 2 ^ n - 1 := by
      have : 1 ≤ 31877 + 2 ^ n := by omega
      push_cast [Nat.cast_sub this]
      ring
    have h3 : ((31877 + 2 ^ n - 1 : Nat) : Int) <
        (((31877 + 2 ^ n - 1) / 2 ^ n : Nat) : Int) * 2 ^ n + 2 ^ n := by exact_mod_cast h1
    rw [h2] at h3
    nlinarith
  cases m with
  | floor => exact ⟨lo, hi⟩
  | towardZero =>
    simp only [shiftProduct]
    rcases le_total 0 x with hx | hx
    · rw [Int.tdiv_eq_ediv_of_nonneg hx]
      exact ⟨lo, hi⟩
    · have hy : x.tdiv (2 ^ n) = -((-x) / 2 ^ n) := by
        rw [← Int.tdiv_eq_ediv_of_nonneg (by omega), Int.neg_tdiv, neg_neg]
      rw [hy]
      have h4 : 0 ≤ (-x) / 2 ^ n := Int.ediv_nonneg (by omega) hd.le
      refine ⟨?_, le_trans (by omega) (Int.natCast_nonneg _)⟩
      have h5 : (-x) / 2 ^ n ≤ -(x / 2 ^ n) := by
        rw [Int.ediv_le_iff_le_mul hd]
        have := Int.mul_ediv_add_emod x (2 ^ n)
        have := Int.emod_lt_of_pos x hd
        have := Int.emod_nonneg x hd.ne'
        nlinarith
      omega

/-- The compare value before truncation lies in R139's interval. -/
theorem compareValue_range {c : Config} (hc : configValid c = true) (p : Fin 3) (i : Byte) {m : Byte}
    (hm : m.toNat ≤ 251) :
    (compareValue c p i m : Int) =
        shiftProduct c.productShift (tableRead p i * (m.toNat : Int)) c.modShift + (c.halfScale : Int) ∧
      cmpLow c ≤ compareValue c p i m ∧ compareValue c p i m ≤ cmpHigh c := by
  have ht := tableRead_bound p i
  have hm0 : (0 : Int) ≤ m.toNat := Int.natCast_nonneg _
  have hm1 : (m.toNat : Int) ≤ 251 := by exact_mod_cast hm
  have hb : -31877 ≤ tableRead p i * (m.toNat : Int) ∧ tableRead p i * (m.toNat : Int) ≤ 31877 := by
    constructor <;> nlinarith
  have hs := shiftProduct_bound c.productShift c.modShift hb
  obtain ⟨-, h1, h2, -⟩ := (configValid_iff c).1 hc
  have h2' : ((c.halfScale + 31877 / 2 ^ c.modShift : Nat) : Int) < 2 ^ c.cmpW := by exact_mod_cast h2
  have h1' : (((31877 + 2 ^ c.modShift - 1) / 2 ^ c.modShift : Nat) : Int) ≤ c.halfScale := by
    exact_mod_cast h1
  have h3 : ((31877 / 2 ^ c.modShift : Nat) : Int) + (c.halfScale : Int) < 2 ^ c.cmpW := by omega
  have he : (compareValue c p i m : Int) =
      shiftProduct c.productShift (tableRead p i * (m.toNat : Int)) c.modShift + (c.halfScale : Int) := by
    unfold compareValue
    rw [Int.emod_eq_of_lt (by omega) (by omega)]
    omega
  refine ⟨he, ?_, ?_⟩
  · rw [cmpLow, maxProduct_eq]
    omega
  · rw [cmpHigh, maxProduct_eq]
    omega

end Sys2Proof.Machine
end

