-- ==== Sys2Proof/Laws/Invariant.lean ====
section
/-! SUPPORT. Each shared operation keeps its group's part of the invariant of Safety.lean. -/

namespace Sys2Proof.Machine

/-- The receiver before byte `rxCount` of a frame, the first one included: what `SerialInv` says in
RECEIVING without its lower bound. -/
structure RxInv (f : Serial) : Prop where
  st : f.fState = .receiving
  count : f.rxCount.toNat ≤ 7
  crc : f.runningCrc = crc16 ((requestHead f).take f.rxCount.toNat)
  func : 2 ≤ f.rxCount.toNat → f.ignore = false → f.frmFunc = fcRead

theorem rxInv_startFrame (f : Serial) : RxInv (startFrame f) :=
  ⟨rfl, by simp [startFrame], by simp [startFrame], by simp [startFrame]⟩

/-- A byte of a frame (R186). -/
theorem serialInv_frameByteStep {f : Serial} (h : RxInv f) (b : Byte) (tx : List Byte) :
    SerialInv (frameByteStep b f) tx := by
  obtain ⟨st, count, crc, func⟩ := h
  obtain ⟨n, hn⟩ : ∃ n, n = f.rxCount.toNat := ⟨_, rfl⟩
  have hc : f.rxCount = BitVec.ofNat 4 n := by rw [hn]; simp
  rw [← hn] at crc func count
  have e1 : ∀ v w : Byte, loByte (v ++ w) = w := loByte_append
  have e2 : ∀ v w : Byte, hiByte (v ++ w) = v := hiByte_append
  have nr : (frameByteStep b f).fState ≠ .responding := by
    simp only [frameByteStep]; split <;> simp [st]
  have key : (frameByteStep b f).rxCount.toNat = n + 1 ∧
      ((frameByteStep b f).fState = .receiving → n ≤ 6) ∧
      ((frameByteStep b f).fState = .validating → n = 7) ∧
      (frameByteStep b f).runningCrc = crc16 ((requestHead (frameByteStep b f)).take (n + 1)) ∧
      (1 ≤ n → (frameByteStep b f).ignore = false → (frameByteStep b f).frmFunc = fcRead) := by
    clear nr
    have : n = 0 ∨ n = 1 ∨ n = 2 ∨ n = 3 ∨ n = 4 ∨ n = 5 ∨ n = 6 ∨ n = 7 := by omega
    rcases this with rfl | rfl | rfl | rfl | rfl | rfl | rfl | rfl <;>
      simp [frameByteStep, storeByte, hc, st, requestHead, crc, setHi, setLo, e1, e2, crc16] at func ⊢ <;>
      exact func
  obtain ⟨k1, k2, k3, k4, k5⟩ := key
  constructor <;> intro h
  · rw [k1]; have := k2 h; omega
  · rw [k1]; have := k3 h; omega
  · rw [k1]; exact k4
  · rw [k1]; intro h2; exact k5 (by omega)
  all_goals exact absurd h nr

theorem serialInv_rxStep {f : Serial} {tx : List Byte} (h : SerialInv f tx) (b : Byte) :
    SerialInv (rxStep b f) tx := by
  have hl : SerialInv { f with lineIdle := false } tx :=
    ⟨h.1, h.2, h.3, h.4, h.5, h.6, h.7, h.8, h.9, h.10, h.11⟩
  unfold rxStep
  split
  · split
    · exact serialInv_frameByteStep (rxInv_startFrame _) b tx
    · exact hl
  · rename_i hs
    exact serialInv_frameByteStep (f := { f with lineIdle := false })
      ⟨hs, (h.receiving_count hs).2, h.request_crc (.inl hs), h.function_supported (.inl hs)⟩ b tx
  · exact hl
  · exact hl

theorem serialInv_of_idle {f : Serial} (h : f.fState = .idle) (tx : List Byte) : SerialInv f tx := by
  constructor <;> intro g <;>
    first | (rcases g with g | g <;> rw [h] at g <;> cases g) | (rw [h] at g; cases g)

theorem serialInv_silenceStep {f : Serial} {tx : List Byte} (h : SerialInv f tx) : SerialInv (silenceStep f) tx := by
  unfold silenceStep
  by_cases hs : f.fState = .receiving
  · exact serialInv_of_idle (by simp [hs]) tx
  · simp only [hs, if_false]
    exact ⟨h.1, h.2, h.3, h.4, h.5, h.6, h.7, h.8, h.9, h.10, h.11⟩

theorem serialInv_receiveFrame {f : Serial} {tx : List Byte} (h : SerialInv f tx) (bs : List Byte) :
    SerialInv (receiveFrame bs f) tx := by
  unfold receiveFrame
  have := serialInv_silenceStep h
  generalize silenceStep f = g at *
  clear h
  induction bs generalizing g with
  | nil => exact this
  | cons b bs ih => exact ih _ (serialInv_rxStep this b)

theorem serialInv_validateStep {f : Serial} {tx : List Byte} (h : SerialInv f tx) (hv : f.fState = .validating) :
    SerialInv (validateStep f) tx := by
  unfold validateStep
  split
  · rename_i ha
    simp only [frameAccepted, Bool.and_eq_true, Bool.not_eq_true', beq_iff_eq, decide_eq_true_eq] at ha
    have hf := h.function_supported (.inr hv) (by rw [h.validating_count hv]; omega) ha.1.1
    constructor <;> intro g
    · cases g
    · cases g
    · rcases g with g | g <;> cases g
    · rcases g with g | g <;> cases g
    · exact hf
    · exact ha.2
    · simp
    · simp
    · simp [sentBytes]
    · simp [sentBytes]
    · simp [sentBytes]
  · exact serialInv_of_idle rfl tx

theorem serialInv_guardStep {f : Serial} {tx : List Byte} (h : SerialInv f tx) : SerialInv (guardStep f) tx := by
  unfold guardStep
  split
  · exact serialInv_of_idle rfl tx
  · exact h

/-- One byte of a response (R194 to R197). -/
theorem serialInv_emitNext {s : State} (h : SerialInv s.ser s.tx) (hs : s.ser.fState = .responding)
    (hk : s.ser.cursor.toNat < responseLength s.ser) (t : Half) :
    SerialInv (emitNext t s).ser (emitNext t s).tx := by
  have hn := h.answered_count hs
  have hr := h.sent_recorded hs
  have hh := h.sent_header hs
  have hc := h.response_crc hs
  have ht := h.sent_trailer hs
  have hL : responseLength s.ser = 3 + 2 * s.ser.regCount.toNat + 2 := rfl
  have hm : maxRegs = 125 := rfl
  have cu : (s.ser.cursor + 1).toNat = s.ser.cursor.toNat + 1 := by
    rw [BitVec.toNat_add]; simp; omega
  obtain ⟨l, hl⟩ : ∃ l, latchStep s.cfg t s.ser = { s.ser with regLatch := l } := by
    unfold latchStep; split
    · exact ⟨_, rfl⟩
    · exact ⟨s.ser.regLatch, rfl⟩
  have em : ∃ b, b = responseByte { s.ser with regLatch := l } s.ser.cursor.toNat ∧
      (emitNext t s).ser = emittedStep b { s.ser with regLatch := l } ∧ (emitNext t s).tx = b :: s.tx := by
    refine ⟨_, rfl, ?_, ?_⟩ <;> simp only [emitNext, hl, emit] <;> rfl
  obtain ⟨b, hb, es, et⟩ := em
  rw [es, et]
  have sl : (sentBytes s.ser s.tx).length = s.ser.cursor.toNat := by simp [sentBytes]; omega
  have se : sentBytes (emittedStep b { s.ser with regLatch := l }) (b :: s.tx) =
      sentBytes s.ser s.tx ++ [b] := by
    simp only [sentBytes, emittedStep, cu, List.take_succ_cons, List.reverse_cons]
  generalize hS : sentBytes s.ser s.tx = S at *
  constructor <;> intro g
  · have : s.ser.fState = .receiving := g
    rw [hs] at this; cases this
  · have : s.ser.fState = .validating := g
    rw [hs] at this; cases this
  · have : s.ser.fState = .receiving ∨ s.ser.fState = .validating := g
    rw [hs] at this; simp at this
  · have : s.ser.fState = .receiving ∨ s.ser.fState = .validating := g
    rw [hs] at this; simp at this
  · exact h.answered_function hs
  · exact hn
  · show (s.ser.cursor + 1).toNat ≤ 3 + 2 * s.ser.regCount.toNat + 2; omega
  · show (s.ser.cursor + 1).toNat ≤ s.tx.length + 1; omega
  · rw [se]
    show _ = List.take (s.ser.cursor + 1).toNat
      [s.ser.frmAddr, s.ser.frmFunc, BitVec.ofNat 8 (2 * s.ser.regCount.toNat)]
    rw [cu]
    simp only [responseByte] at hb
    by_cases k3 : s.ser.cursor.toNat < 3
    · rw [List.take_of_length_le (by simp; omega)]
      rw [List.take_of_length_le (by omega)] at hh
      rw [hh]
      generalize s.ser.cursor.toNat = k at *
      have : k = 0 ∨ k = 1 ∨ k = 2 := by omega
      rcases this with rfl | rfl | rfl <;> simp [hb]
    · rw [List.take_append_of_le_length (by omega), hh, List.take_of_length_le (by simp; omega),
        List.take_of_length_le (by simp; omega)]
  · rw [se]
    show (if s.ser.cursor.toNat < 3 + 2 * s.ser.regCount.toNat then crcUpdate s.ser.runningCrc b
      else s.ser.runningCrc) = crc16 (List.take (3 + 2 * s.ser.regCount.toNat) (S ++ [b]))
    split
    · rw [List.take_of_length_le (by omega)] at hc
      rw [List.take_of_length_le (by simp; omega), crcUpdate_append, hc]
    · rw [List.take_append_of_le_length (by omega), hc]
  · rw [se]
    show List.drop (3 + 2 * s.ser.regCount.toNat) (S ++ [b]) =
      List.take ((s.ser.cursor + 1).toNat - (3 + 2 * s.ser.regCount.toNat))
        [loByte (if s.ser.cursor.toNat < 3 + 2 * s.ser.regCount.toNat then crcUpdate s.ser.runningCrc b
            else s.ser.runningCrc),
          hiByte (if s.ser.cursor.toNat < 3 + 2 * s.ser.regCount.toNat then crcUpdate s.ser.runningCrc b
            else s.ser.runningCrc)]
    rw [cu]
    by_cases kl : s.ser.cursor.toNat < 3 + 2 * s.ser.regCount.toNat
    · rw [List.drop_eq_nil_of_le (by simp; omega),
        show s.ser.cursor.toNat + 1 - (3 + 2 * s.ser.regCount.toNat) = 0 by omega]
      rfl
    · simp only [kl, if_false]
      rw [List.drop_append_of_le_length (by omega), ht]
      simp only [responseByte] at hb
      rw [if_neg (by omega), if_neg (by omega), if_neg (by omega), if_neg (by omega)] at hb
      have : s.ser.cursor.toNat = 3 + 2 * s.ser.regCount.toNat ∨ s.ser.cursor.toNat = 3 + 2 * s.ser.regCount.toNat + 1 := by omega
      rcases this with e | e
      · rw [if_pos e] at hb
        rw [hb, e]; simp
      · rw [if_neg (by omega)] at hb
        rw [hb, e, show 3 + 2 * s.ser.regCount.toNat + 1 + 1 - (3 + 2 * s.ser.regCount.toNat) = 2 by omega]
        simp

/-! The waveform and detector groups. -/

theorem driveInv_carrierStep {c : Config} {d : Drive} (h : DriveInv c d) : DriveInv c (carrierStep c d) where
  freq_fits := by
    rw [carrierStep_freq]; unfold dividerStep; split
    · exact fit_lt _ _
    · exact h.freq_fits
  req_fits := by rw [carrierStep_reqFreq]; exact h.req_fits
  acc_fits := advanceAcc_lt _ _
  index_derived := rfl
  depth_bounded := depthOf_le _ _
  divider_bounded := by
    have := h.divider_bounded
    rw [carrierStep_subDiv]; unfold dividerStep; split
    · simp only [rampStep]; omega
    · simp only; omega
  tick_fits := by
    rw [carrierStep_tick]; unfold dividerStep; split
    · exact fit_lt _ _
    · exact h.tick_fits
  cmp_range := by rw [carrierStep_cmp]; exact h.cmp_range

theorem driveInv_matchStep {c : Config} (hc : configValid c = true) {d : Drive} (h : DriveInv c d)
    (p : Fin 3) : DriveInv c (matchStep c p d) :=
  { freq_fits := h.freq_fits, req_fits := h.req_fits, acc_fits := h.acc_fits,
    index_derived := h.index_derived, depth_bounded := h.depth_bounded,
    divider_bounded := h.divider_bounded, tick_fits := h.tick_fits
    cmp_range := fun q => by
      have := compareValue_range hc p d.phaseIndex h.depth_bounded
      show cmpLow c ≤ (d.cmp.set p _).get q ∧ (d.cmp.set p _).get q ≤ cmpHigh c
      rw [File3.get_set]
      split
      · exact this.2
      · exact h.cmp_range q }

theorem driveInv_standstill {c : Config} {d : Drive} (h : DriveInv c d) : DriveInv c d.standstill where
  freq_fits := by simp [Drive.standstill]
  req_fits := h.req_fits
  acc_fits := accModulus_pos c
  index_derived := by simp [Drive.standstill, indexOf]
  depth_bounded := by simp [Drive.standstill]
  divider_bounded := h.divider_bounded
  tick_fits := h.tick_fits
  cmp_range := h.cmp_range

theorem pressInv_consumeStep {c : Config} {p : Pressure} {tick : Nat} (h : PressInv c p)
    (ht : tick < 2 ^ c.tickW) : PressInv c (consumeStep c tick p) := by
  unfold consumeStep
  split
  · split
    · exact ⟨ht, rfl⟩
    · exact ⟨h.1, h.2⟩
  · exact h

end Sys2Proof.Machine
end

