-- ==== Sys2Proof/Laws/PerInstr.lean ====
section
/-! SUPPORT. Statements made per instruction. Family Opcode: the encoded word of an operation carries its row's
unit and op in bits 31:24 (30_encoding R91; the "code" of an interrupt source, 60_exceptions R230), whatever
its operands; the frame of READ_HOLDING carries the function code in byte 1 (R100). -/

namespace Sys2Proof.Laws.Opcode

open Sys2Proof

/-- Unit and op of a row of R91; none for the frame. -/
def unitOp : Instr → Option Nat
  | .pwmCarrier => some 0x10
  | .pwmMatch _ => some 0x11
  | .drvStart => some 0x12
  | .drvStop => some 0x13
  | .drvSetreq _ => some 0x14
  | .drvSetdir _ => some 0x15
  | .tmrOvf => some 0x20
  | .capEdge _ _ => some 0x21
  | .psConsume => some 0x22
  | .psReset => some 0x23
  | .rxByte _ => some 0x30
  | .rxSilence => some 0x31
  | .serPoll _ => some 0x32
  | .txGuard => some 0x33
  | .cfgAddr _ => some 0x34
  | .reset => some 0xF0
  | .scTrap => some 0xF1
  | .readHolding _ _ _ _ _ => none

/-- The encoded object selects the operation's own row. -/
def Statement (i : Instr) : Prop :=
  match encode i with
  | .word w => unitOp i = some (w.toNat / 2 ^ 24)
  | .frame f => unitOp i = none ∧ frameByte f 1 = fcRead
  | .envFault _ => False

theorem pwmCarrier : Statement .pwmCarrier := rfl
theorem pwmMatch (p : BitVec 2) : Statement (.pwmMatch p) := by
  show some 0x11 = some ((0x4400000#30 ++ p : Word).toNat / 2 ^ 24)
  rw [toNat_word2 _ p]
  have := p.isLt
  congr 1
  simp
  omega
theorem drvStart : Statement .drvStart := rfl
theorem drvStop : Statement .drvStop := rfl
theorem drvSetreq (v : Half) : Statement (.drvSetreq v) := by
  show some 0x14 = some ((0x1400#16 ++ v : Word).toNat / 2 ^ 24)
  rw [toNat_word16 _ v]
  have := v.isLt
  congr 1
  simp
  omega
theorem drvSetdir (d : BitVec 1) : Statement (.drvSetdir d) := by
  show some 0x15 = some ((0xA800000#31 ++ d : Word).toNat / 2 ^ 24)
  rw [toNat_word1 _ d]
  have := d.isLt
  congr 1
  simp
  omega
theorem tmrOvf : Statement .tmrOvf := rfl
theorem capEdge (c : Half) (ovf : BitVec 1) : Statement (.capEdge c ovf) := by
  show some 0x21 = some ((0x1080#15 ++ ovf ++ c : Word).toNat / 2 ^ 24)
  rw [toNat_wordCap _ ovf c]
  have := ovf.isLt
  have := c.isLt
  congr 1
  simp
  omega
theorem psConsume : Statement .psConsume := rfl
theorem psReset : Statement .psReset := rfl
theorem rxByte (b : Byte) : Statement (.rxByte b) := by
  show some 0x30 = some ((0x300000#24 ++ b : Word).toNat / 2 ^ 24)
  rw [toNat_word8 _ b]
  have := b.isLt
  congr 1
  simp
  omega
theorem rxSilence : Statement .rxSilence := rfl
theorem serPoll (t : Half) : Statement (.serPoll t) := by
  show some 0x32 = some ((0x3200#16 ++ t : Word).toNat / 2 ^ 24)
  rw [toNat_word16 _ t]
  have := t.isLt
  congr 1
  simp
  omega
theorem txGuard : Statement .txGuard := rfl
theorem cfgAddr (a : Byte) : Statement (.cfgAddr a) := by
  show some 0x34 = some ((0x340000#24 ++ a : Word).toNat / 2 ^ 24)
  rw [toNat_word8 _ a]
  have := a.isLt
  congr 1
  simp
  omega
theorem reset : Statement .reset := rfl
theorem scTrap : Statement .scTrap := rfl
theorem readHolding (a : Byte) (s n : Half) (l h : Byte) : Statement (.readHolding a s n l h) := by
  refine ⟨rfl, ?_⟩
  apply BitVec.eq_of_toNat_eq
  rw [frameByte_toNat, toNat_frame]
  have := s.isLt
  have := n.isLt
  have := l.isLt
  have := h.isLt
  simp [fcRead]
  omega

end Sys2Proof.Laws.Opcode
end

