-- ==== Sys2Proof/Laws/Step.lean ====
section
/-! SUPPORT. Inversion of `exec` and `step`: what they answer, said once. -/

namespace Sys2Proof.Machine

/-- A poll answers a next state in every frame state. -/
theorem execSerPoll_next (t : Half) (s : State) : ∃ u, execSerPoll t s = .next u := by
  unfold execSerPoll
  split <;> exact ⟨_, rfl⟩

/-- Every well-formed operation runs in every state. -/
theorem exec_completes (i : Instr) (s : State) (h : i.wellFormed = true) : ∃ t, exec i s = .next t := by
  cases i with
  | pwmMatch p =>
    have : p = 0#2 ∨ p = 1#2 ∨ p = 2#2 := by revert p; decide
    rcases this with rfl | rfl | rfl <;> exact ⟨_, rfl⟩
  | serPoll t => exact execSerPoll_next t s
  | _ => exact ⟨_, rfl⟩

/-- `exec` either answers a next state or refuses PWM_MATCH 3. -/
theorem exec_cases (i : Instr) (s : State) :
    (∃ t, exec i s = .next t) ∨ (i = .pwmMatch 3#2 ∧ exec i s = .refused .reservedPhase) := by
  by_cases h : i.wellFormed = true
  · exact .inl (exec_completes i s h)
  · cases i <;> simp [Instr.wellFormed] at h
    subst h
    exact .inr ⟨rfl, rfl⟩

/-- No answer of `exec` names a reserved word or a configuration. -/
theorem exec_ne_reservedWord (i : Instr) (s : State) (why : Reserved) (w : Word) :
    exec i s ≠ .refused (.reservedWord why w) := by
  rcases exec_cases i s with ⟨t, h⟩ | ⟨_, h⟩ <;> simp [h]

theorem exec_ne_invalidConfiguration (i : Instr) (s : State) :
    exec i s ≠ .refused .invalidConfiguration := by
  rcases exec_cases i s with ⟨t, h⟩ | ⟨_, h⟩ <;> simp [h]

theorem step_of_cons {s : State} {x : Input} {rest : List Input} (hc : configValid s.cfg = true)
    (hi : s.inputs = x :: rest) : step s = stepInput x (s.withInputs rest) := by
  unfold step
  rw [if_pos hc, hi]

theorem step_of_nil {s : State} (hc : configValid s.cfg = true) (hi : s.inputs = []) : step s = .next s := by
  unfold step
  rw [if_pos hc, hi]
  rfl

theorem step_invalid {s : State} (hc : configValid s.cfg ≠ true) :
    step s = .refused .invalidConfiguration := by
  unfold step
  rw [if_neg hc]

/-- What a step that answers a next state has done. -/
theorem step_cases {s t : State} (h : step s = .next t) :
    configValid s.cfg = true ∧
      ((s.inputs = [] ∧ t = s) ∨
        ∃ x rest, s.inputs = x :: rest ∧
          ((∃ i, decodeInput x = some (.ok i) ∧ exec i (s.withInputs rest) = .next t) ∨
            (∃ f why, x = .frame f ∧ decodeFrame f = .error why ∧ t = foreignFrame f (s.withInputs rest)) ∨
            ∃ mask, x = .envFault mask ∧ t = envWriteFaults mask (s.withInputs rest))) := by
  by_cases hc : configValid s.cfg = true
  · refine ⟨hc, ?_⟩
    match hi : s.inputs with
    | [] =>
      rw [step_of_nil hc hi] at h
      injection h with h
      exact .inl ⟨rfl, h.symm⟩
    | x :: rest =>
      rw [step_of_cons hc hi] at h
      refine .inr ⟨x, rest, rfl, ?_⟩
      cases x with
      | word w =>
        simp only [stepInput] at h
        split at h
        · exact .inl ⟨_, congrArg some (by assumption), h⟩
        · cases h
      | frame f =>
        simp only [stepInput] at h
        split at h
        · exact .inl ⟨_, congrArg some (by assumption), h⟩
        · injection h with h
          exact .inr (.inl ⟨f, _, rfl, by assumption, h.symm⟩)
      | envFault mask =>
        injection h with h
        exact .inr (.inr ⟨mask, rfl, h.symm⟩)
  · rw [step_invalid hc] at h
    cases h

end Sys2Proof.Machine
end

