-- ==== Sys2Proof/Laws/Samples.lean ====
section
/-! SUPPORT. The ring as the list of accepted samples fills it, and the median of its slots in any order. -/

namespace Sys2Proof.Machine

theorem ringOf_snoc (ds : List Word) (d : Word) :
    ringOf (ds ++ [d]) = ((ringOf ds).1.set (ringOf ds).2 d, (ringOf ds).2 + 1) := by
  simp [ringOf]

/-- The slots hold the last three samples, the newest just before the index, zeros for missing ones (R170). -/
theorem ringOf_get (ds : List Word) : ∀ {x y z : Word} {rest : List Word},
    ds.reverse ++ [0#32, 0#32, 0#32] = x :: y :: z :: rest →
    (ringOf ds).1.get ((ringOf ds).2 + 2) = x ∧ (ringOf ds).1.get ((ringOf ds).2 + 1) = y ∧
      (ringOf ds).1.get (ringOf ds).2 = z := by
  induction ds using List.reverseRecOn with
  | nil =>
    intro x y z rest h
    simp at h
    obtain ⟨rfl, rfl, rfl, -⟩ := h
    exact ⟨rfl, rfl, rfl⟩
  | append_singleton ds d ih =>
    intro x y z rest h
    rw [List.reverse_append] at h
    simp only [List.reverse_cons, List.reverse_nil, List.nil_append, List.cons_append, List.cons.injEq] at h
    obtain ⟨rfl, h⟩ := h
    obtain ⟨z', rest', hz⟩ : ∃ z' rest', ds.reverse ++ [0#32, 0#32, 0#32] = y :: z :: z' :: rest' := by
      match rest, h with
      | z' :: rest', h => exact ⟨z', rest', h⟩
      | [], h =>
        have := congrArg List.length h
        simp at this
    obtain ⟨h1, h2, -⟩ := ih hz
    rw [ringOf_snoc]
    generalize ringOf ds = r at *
    obtain ⟨f, i⟩ := r
    dsimp only at *
    have e0 : i + 1 + 2 = i := by clear h1 h2 ih; revert i; decide
    have e1 : i + 1 + 1 = i + 2 := by clear h1 h2 ih; revert i; decide
    have n1 : i + 2 ≠ i := by clear h1 h2 ih; revert i; decide
    have n2 : i + 1 ≠ i := by clear h1 h2 ih; revert i; decide
    rw [e0, e1, File3.get_set_self, File3.get_set_of_ne _ _ n1, File3.get_set_of_ne _ _ n2]
    exact ⟨rfl, h1, h2⟩

/-- The median's value does not depend on the order of the slots (R171). -/
theorem median3_toNat (a b c : Word) :
    (median3 a b c).toNat = max (min a.toNat b.toNat) (min (max a.toNat b.toNat) c.toNat) := by
  simp only [median3, BitVec.le_def]
  split_ifs <;> omega

/-- The median of the slots read from any one of them downwards. -/
theorem ringMedian_from (f : File3 Word) (i : Fin 3) :
    ringMedian f = median3 (f.get (i + 2)) (f.get (i + 1)) (f.get i) := by
  apply BitVec.eq_of_toNat_eq
  rw [ringMedian, median3_toNat, median3_toNat]
  match i with
  | 0 => show _ = max (min f.r2.toNat f.r1.toNat) (min (max f.r2.toNat f.r1.toNat) f.r0.toNat); omega
  | 1 => show _ = max (min f.r0.toNat f.r2.toNat) (min (max f.r0.toNat f.r2.toNat) f.r1.toNat); omega
  | 2 => show _ = max (min f.r1.toNat f.r0.toNat) (min (max f.r1.toNat f.r0.toNat) f.r2.toNat); omega

/-- A consumption that accepts the pending sample, as the operation. -/
theorem exec_psConsume_accept {s : State} (hp : s.press.pending = true)
    (hd : plausible s.cfg s.press.rawDelta = true) :
    exec .psConsume s =
      .next (s.withPress (acceptSample s.drive.tick { s.press with pending := false })) := by
  show Host.Outcome.next _ = _
  simp only [consumeStep, hp, hd, if_true]

end Sys2Proof.Machine
end

