-- ==== Sys2Proof/Tests/Slice0.lean ====
section
/-! SUPPORT. Tests: expected values are those of 95_test_vectors.md and of the rules' own examples (cited), none is
the model's own answer. Then a witness for the hypotheses of every statement. -/

namespace Sys2Proof.Tests

open Sys2Proof
open Sys2Proof.Machine

/-! ### WellFormed: the one ill-formed term, refused by the check and by the meaning (R110) -/

theorem test_wf_refuses_phase_3 : (Instr.pwmMatch 3#2).wellFormed = false := by decide
theorem test_wf_admits_phase_2 : (Instr.pwmMatch 2#2).wellFormed = true := by decide
theorem test_phase_3_refused : exec (.pwmMatch 3#2) State.reset = .refused .reservedPhase := rfl

/-! ### Decoding: every constructor from a word written out from R91, R100 and 95 section 2.6 -/

theorem test_dec_pwm_carrier : decodeWord 0x10000000#32 = .ok .pwmCarrier := by decide
theorem test_dec_pwm_match : decodeWord 0x11000002#32 = .ok (.pwmMatch 2#2) := by decide
theorem test_dec_drv_start : decodeWord 0x12000000#32 = .ok .drvStart := by decide
theorem test_dec_drv_stop : decodeWord 0x13000000#32 = .ok .drvStop := by decide
theorem test_dec_drv_setreq : decodeWord 0x140000CD#32 = .ok (.drvSetreq 205#16) := by decide
theorem test_dec_drv_setdir : decodeWord 0x15000001#32 = .ok (.drvSetdir 1#1) := by decide
theorem test_dec_tmr_ovf : decodeWord 0x20000000#32 = .ok .tmrOvf := by decide
theorem test_dec_cap_edge : decodeWord 0x2101FF00#32 = .ok (.capEdge 0xFF00#16 1#1) := by decide
theorem test_dec_ps_consume : decodeWord 0x22000000#32 = .ok .psConsume := by decide
theorem test_dec_ps_reset : decodeWord 0x23000000#32 = .ok .psReset := by decide
theorem test_dec_rx_byte : decodeWord 0x300000C4#32 = .ok (.rxByte 0xC4#8) := by decide
theorem test_dec_rx_silence : decodeWord 0x31000000#32 = .ok .rxSilence := by decide
theorem test_dec_ser_poll : decodeWord 0x3200ABCD#32 = .ok (.serPoll 0xABCD#16) := by decide
theorem test_dec_tx_guard : decodeWord 0x33000000#32 = .ok .txGuard := by decide
theorem test_dec_cfg_addr : decodeWord 0x34000011#32 = .ok (.cfgAddr 0x11#8) := by decide
theorem test_dec_reset : decodeWord 0xF0000000#32 = .ok .reset := by decide
theorem test_dec_sc_trap : decodeWord 0xF1000000#32 = .ok .scTrap := by decide
/-- 01 03 00 06 00 03 E5 CA (95 section 2.4). -/
theorem test_dec_read_holding : decodeFrame 0x010300060003E5CA#64 =
    .ok (.readHolding 1#8 6#16 3#16 0xE5#8 0xCA#8) := by decide
/-- Function 4 is no READ_HOLDING (95 section 2.4). -/
theorem test_dec_function_4 : decodeFrame 0x01040000000271CB#64 = .error .functionCode := by decide
/-- The reserved words of 95 section 2.6. -/
theorem test_dec_reserved :
    decodeWord 0x11000003#32 = .error .phase ∧ decodeWord 0x10000001#32 = .error .operandBits ∧
    decodeWord 0x14010000#32 = .error .operandBits ∧ decodeWord 0x21020000#32 = .error .operandBits ∧
    decodeWord 0x30000100#32 = .error .operandBits ∧ decodeWord 0x00000000#32 = .error .unit ∧
    decodeWord 0x40000000#32 = .error .unit ∧ decodeWord 0x16000000#32 = .error .op ∧
    decodeWord 0x24000000#32 = .error .op ∧ decodeWord 0x35000000#32 = .error .op ∧
    decodeWord 0xF2000000#32 = .error .op := by decide
theorem test_enc_read_holding :
    encode (.readHolding 1#8 0#16 2#16 0xC4#8 0x0B#8) = .frame 0x010300000002C40B#64 := by decide
theorem test_table_word_numbering :
    decodeTableWord 32 0x12000000 = some .drvStart ∧
    decodeTableWord 64 0x010300000002C40B = some (.readHolding 1#8 0#16 2#16 0xC4#8 0x0B#8) := by decide

/-! ### One operation on a small state -/

/-- The next state, if there is one. -/
def ran (i : Instr) (s : State) : Option State :=
  match exec i s with
  | .next t => some t
  | _ => none

/-- Reset with a changed waveform group, detector group or serial group. -/
def withD (f : Drive → Drive) : State := State.reset.withDrive (f State.reset.drive)
def withP (f : Pressure → Pressure) : State := State.reset.withPress (f State.reset.press)
def withS (f : Serial → Serial) : State := State.reset.withSer (f State.reset.ser)

/-- R131's example: the 32nd invocation after DRV_SETREQ 205. -/
theorem test_carrier_ramp_step :
    (ran .pwmCarrier (withD fun d => { d with reqFreq := 205, subDiv := 31 })).map (fun t =>
      (t.drive.subDiv, t.drive.tick, t.drive.freq, t.drive.acc, t.drive.phaseIndex, t.drive.modDepth)) =
      some (0, 1, 1, 1, 0#8, 1#8) := by decide
/-- R133: reverse wrap, acc 0x0020 − 100. -/
theorem test_carrier_reverse_wrap :
    (ran .pwmCarrier (withD fun d =>
      { d with freq := 100, reqFreq := 100, acc := 0x20, rotDir := .reverse })).map (fun t =>
      (t.drive.acc, t.drive.phaseIndex, t.drive.modDepth)) = some (0xFFBC, 255#8, 122#8) := by decide
/-- 95 section 2.2: index 107, depth 122, phase V: 75. -/
theorem test_match_floor :
    (ran (.pwmMatch 1#2) (withD fun d => { d with phaseIndex := 107#8, modDepth := 122#8 })).map
      (fun t => t.drive.cmp) = some ⟨128, 75, 128⟩ := by decide
/-- 95 section 2.2: index 0, depth 251, phase W: 3, and 4 in the variant of 93 U1. -/
theorem test_match_lowest :
    compareValue Config.reference 2 0#8 251#8 = 3 ∧
    compareValue { Config.reference with productShift := .towardZero } 2 0#8 251#8 = 4 := by decide
/-- R141's example. -/
theorem test_start :
    (ran .drvStart (withD fun d => { d with freq := 57, acc := 0x1234, reqFreq := 9 })).map (fun t =>
      (t.drive.freq, t.drive.acc, t.drive.running, t.drive.bridgeEn, t.drive.reqFreq)) =
      some (0, 0, true, true, 9) := by decide
/-- R142's example. -/
theorem test_stop :
    (ran .drvStop (withD fun d => { d with freq := 40, modDepth := 40#8, bridgeEn := true })).map (fun t =>
      (t.drive.freq, t.drive.modDepth, t.drive.running, t.drive.bridgeEn)) =
      some (0, 0#8, false, false) := by decide
theorem test_setreq_accepts_all :
    (ran (.drvSetreq 0xFFFF#16) State.reset).map (fun t => (t.drive.reqFreq, t.drive.freq)) =
      some (65535, 0) := by decide
theorem test_setdir :
    (ran (.drvSetdir 1#1) State.reset).map (fun t => t.drive.rotDir) = some .reverse := by decide
/-- R161: 0xFFFF wraps. -/
theorem test_ovf_wraps :
    (ran .tmrOvf (withP fun p => { p with ovfCount := 0xFFFF#16 })).map (fun t => t.press.ovfCount) =
      some 0#16 := by decide
/-- R163's example: ts 0x00060010 from 0x0005FFF0. -/
theorem test_capture_race :
    (ran (.capEdge 0x0010#16 1#1) (withP fun p =>
      { p with ovfCount := 5#16, lastCaptureTime := 0x0005FFF0#32 })).map (fun t =>
      (t.press.rawDelta, t.press.lastCaptureTime, t.press.pending, t.press.ovfCount)) =
      some (0x20#32, 0x00060010#32, true, 5#16) := by decide
/-- 95 section 2.3: the threshold at 0x8000. -/
theorem test_recon_threshold :
    recon Config.reference 5#16 0x7FFF#16 true = 0x00067FFF#32 ∧
    recon Config.reference 5#16 0x8000#16 true = 0x00058000#32 ∧
    recon Config.reference 0xFFFF#16 0x0010#16 true = 0x00000010#32 := by decide
/-- R168's example. -/
theorem test_consume :
    (ran .psConsume { withP (fun p =>
      { p with ring := ⟨0x1000, 0x1200, 0x1100⟩, rawDelta := 0x1300, pending := true }) with
        drive := { State.reset.drive with tick := 77 } }).map (fun t =>
      (t.press.ring, t.press.ringIdx, t.press.filtered, t.press.lastSampleAge, t.press.pending)) =
      some (⟨0x1300, 0x1200, 0x1100⟩, 1, 0x1200#32, 77, false) := by decide
/-- R169: the ends of the range. -/
theorem test_plausible_ends :
    plausible Config.reference 0x3FF#32 = false ∧ plausible Config.reference 0x400#32 = true ∧
    plausible Config.reference 0xFFFFF#32 = true ∧ plausible Config.reference 0x100000#32 = false := by decide
/-- R171's examples with 95's unsigned one. -/
theorem test_median :
    median3 3#32 9#32 5#32 = 5#32 ∧ median3 9#32 5#32 5#32 = 5#32 ∧ median3 5#32 9#32 5#32 = 5#32 ∧
    median3 0xFFFFFFFF#32 0#32 1#32 = 1#32 := by decide
/-- R172: `ovfCount` is not touched. -/
theorem test_ps_reset :
    (ran .psReset (withP fun p => { p with ovfCount := 3#16, pending := true, filtered := 9#32 })).map
      (fun t => t.press) = some { Pressure.initial with ovfCount := 3#16 } := by decide
/-- R181's examples. -/
theorem test_crc_update :
    crcUpdate 0xFFFF#16 0x01#8 = 0x807E#16 ∧ crcUpdate 0xFFFF#16 0xFF#8 = 0x00FF#16 ∧
    crcUpdate 0#16 0x80#8 = 0xA001#16 := by decide
/-- R186's example: a frame start. -/
theorem test_rx_first_byte :
    (ran (.rxByte 1#8) (withS fun f => { f with lineIdle := true })).map (fun t =>
      (t.ser.fState, t.ser.frmAddr, t.ser.ignore, t.ser.runningCrc, t.ser.rxCount, t.ser.lineIdle)) =
      some (.receiving, 1#8, false, 0x807E#16, 1#4, false) := by decide
/-- 95 section 2.4: after RESET a byte with no silence before it is discarded. -/
theorem test_rx_without_silence :
    (ran (.rxByte 1#8) State.reset).map (fun t => t.ser) = some State.reset.ser := by decide
/-- R185's example. -/
theorem test_silence :
    (ran .rxSilence (withS fun f => { f with fState := .receiving, rxCount := 3#4 })).map (fun t =>
      (t.ser.fState, t.ser.lineIdle, t.ser.rxCount)) = some (.idle, true, 3#4) := by decide
/-- R192's example and P3: the register sampled, its high byte emitted. -/
theorem test_poll_high_byte :
    (ran (.serPoll 0x1234#16) (withS fun f =>
      { f with fState := .responding, regCount := 2#16, cursor := 3#8, runningCrc := 0x3321#16 })).map
      (fun t => (t.tx, t.ser.regLatch, t.ser.cursor, t.ser.runningCrc)) =
      some ([0x12#8], 0x1234#16, 4#8, 0x1573#16) := by decide
/-- P3: the trailer, low byte first, not accumulated. -/
theorem test_poll_trailer :
    (ran (.serPoll 0#16) (withS fun f =>
      { f with fState := .responding, regCount := 2#16, cursor := 8#8, runningCrc := 0x2000#16 })).map
      (fun t => (t.tx, t.ser.cursor, t.ser.runningCrc)) = some ([0x20#8], 9#8, 0x2000#16) := by decide
/-- R198's example. -/
theorem test_guard :
    (ran .txGuard (withS fun f =>
      { f with fState := .responding, regCount := 2#16, cursor := 9#8 })).map
      (fun t => (t.ser.fState, t.ser.lineIdle)) = some (.idle, true) := by decide
theorem test_cfg_addr :
    (ran (.cfgAddr 0x11#8) State.reset).map (fun t => t.ser.stationAddr) = some 0x11#8 := by decide
/-- R260's example. -/
theorem test_reset :
    (ran .reset (withD fun d => { d with freq := 5, bridgeEn := true, cmp := ⟨1, 2, 3⟩ })) =
      some State.reset ∧ State.reset.drive.cmp = ⟨128, 128, 128⟩ ∧ State.reset.ser.stationAddr = 1#8 ∧
    State.reset.ser.runningCrc = 0xFFFF#16 ∧ State.reset.fault = 0#8 := by decide
/-- 95 section 2.5: fault 0x04 becomes 0x05. -/
theorem test_trap :
    (ran .scTrap { withD (fun d => { d with running := true, bridgeEn := true, freq := 205 }) with
      fault := 4#8 }).map (fun t => (t.drive.bridgeEn, t.fault, t.drive.running, t.drive.freq)) =
      some (false, 5#8, true, 205) := by decide
/-- P3 and 95 section 2.4: the fields of 01 03 00 06 00 03 E5 CA. -/
theorem test_read_holding :
    (ran (.readHolding 1#8 6#16 3#16 0xE5#8 0xCA#8) State.reset).map (fun t =>
      (t.ser.fState, t.ser.ignore, t.ser.startReg, t.ser.regCount, t.ser.rxCrc, t.ser.runningCrc)) =
      some (.validating, false, 6#16, 3#16, 0xCAE5#16, 0xCAE5#16) := by decide +kernel
/-- The step takes the next object; the host's fetch word runs as the first operation. -/
theorem test_step_runs_word :
    step (State.reset.withFetchWord 32 0x12000000) = exec .drvStart State.reset := rfl
/-- 95 section 2.1. -/
theorem test_table_entries :
    tableRead 1 21#8 = 111 ∧ tableRead 2 235#8 = -111 ∧ tableRead 0 255#8 = -5 ∧ tableRead 1 43#8 = -2 := by
  decide

/-! ### Witnesses: the hypotheses of the statements can be met -/

theorem inv_reset : Inv State.reset := by
  refine ⟨by decide, ?_, ?_, ?_⟩
  · constructor <;> decide
  · constructor <;> decide
  · constructor <;> decide

theorem witness_DecodeAfterEncode : (Instr.pwmMatch 2#2).wellFormed = true := by decide
theorem witness_EncodeAfterDecode :
    decodeInput (.word 0x2101FF00#32) = some (.ok (.capEdge 0xFF00#16 1#1)) ∧
    decodeInput (.frame 0x010300000002C40B#64) = some (.ok (.readHolding 1#8 0#16 2#16 0xC4#8 0x0B#8)) := by
  decide
theorem witness_ReservedWordsRefused :
    configValid (issue (.word 0x16000000#32) State.reset).cfg = true ∧
    (issue (.word 0x16000000#32) State.reset).inputs = .word 0x16000000#32 :: [] ∧
    (∀ r ∈ opcodeRows, fixedAbove 0x16000000#32 r.2.1 r.2.2 = false) := by decide
theorem witness_StepRunsDecodedOperation :
    configValid (issue (.word 0x140000CD#32) State.reset).cfg = true ∧
    (issue (.word 0x140000CD#32) State.reset).inputs = .word 0x140000CD#32 :: [] ∧
    decodeInput (.word 0x140000CD#32) = some (.ok (.drvSetreq 205#16)) := by decide
theorem witness_IssuedTableWordRuns :
    configValid State.reset.cfg = true ∧
    decodeTableWord 64 0x010300000002C40B = some (.readHolding 1#8 0#16 2#16 0xC4#8 0x0B#8) := by decide
theorem witness_InvalidConfigurationRefused :
    configValid { Config.reference with halfScale := 124 } = false ∧
    configValid { Config.reference with halfScale := 125 } = true ∧
    configValid { Config.reference with halfScale := 131 } = true ∧
    configValid { Config.reference with halfScale := 132 } = false ∧
    configValid { Config.reference with faultBit := { FaultBits.listOrder with undervoltage := 0 } } = false ∧
    configValid { Config.reference with faultBit := ⟨7, 6, 5, 4, 3, 2, 1, 0⟩ } = true := by decide
theorem witness_EnvironmentObjectsRun :
    configValid (issue (.envFault 3#8) State.reset).cfg = true ∧
    (issue (.envFault 3#8) State.reset).inputs = .envFault 3#8 :: [] ∧ (0x04#8 : Byte) ≠ 0x03#8 ∧
    (issue (.frame (1#8 ++ 4#8 ++ 0#8 ++ 0#8 ++ 0#8 ++ 2#8 ++ 0x71#8 ++ 0xCB#8)) State.reset).inputs =
      .frame (1#8 ++ 4#8 ++ 0#8 ++ 0#8 ++ 0#8 ++ 2#8 ++ 0x71#8 ++ 0xCB#8) :: [] ∧
    State.reset.inputs = [] := by decide
theorem witness_CarrierRampsAdvancesAndScales :
    DriveInv Config.reference { State.reset.drive with reqFreq := 205, subDiv := 31 } ∧
    ((1 : Nat) : Int) = (((0 : Nat) : Int) + ((1 : Nat) : Int)) % (256 * 2 ^ 8) :=
  ⟨by constructor <;> decide, by decide⟩
theorem witness_CarrierRampLaw :
    DriveInv Config.reference { State.reset.drive with reqFreq := 205, subDiv := 0 } :=
  by constructor <;> decide
theorem witness_RampReachesRequest :
    DriveInv Config.reference { State.reset.drive with reqFreq := 205, subDiv := 3 } ∧
    (((205 : Nat) : Int) - ((0 : Nat) : Int)).natAbs ≤ 205 :=
  ⟨by constructor <;> decide, by decide⟩
theorem witness_MatchWritesScaledEntry :
    configValid State.reset.cfg = true ∧ (251#8 : Byte).toNat ≤ 251 ∧ ((2 : Fin 3).val = (2#2 : BitVec 2).toNat) ∧
    (3 : Int) = (tableRead 2 0#8 * ((251#8 : Byte).toNat : Int)) / 2 ^ 8 + 128 := by decide
theorem witness_MatchAtRestAndTwice :
    configValid State.reset.cfg = true ∧ (2 : Fin 3).val = (2#2 : BitVec 2).toNat ∧
    State.reset.drive.modDepth = 0#8 ∧ (0#2 : BitVec 2) ≠ 3#2 := by decide
theorem witness_NominalPeriodRewritesAll :
    Inv State.reset ∧ State.reset.cfg.productShift = .floor ∧
    NominalMatches [.pwmMatch 2, .pwmMatch 0, .pwmMatch 1] :=
  ⟨inv_reset, rfl, by unfold NominalMatches; decide⟩
theorem witness_SetRequestWritesTarget : 16 ≤ State.reset.cfg.freqW := by decide
theorem witness_DriveVariablesHaveTheirWriters :
    (∃ t, exec .pwmCarrier (withD fun d => { d with freq := 1, reqFreq := 2, subDiv := 31, acc := 255 }) =
      .next t ∧ t.drive.freq = 2 ∧ t.drive.tick = 1 ∧ t.drive.phaseIndex = 1#8) ∧
    (∃ t, exec (.drvSetreq 7#16) State.reset = .next t ∧ t.drive.reqFreq ≠ State.reset.drive.reqFreq) ∧
    (∃ t, exec (.drvSetdir 1#1) State.reset = .next t ∧ t.drive.rotDir ≠ State.reset.drive.rotDir) ∧
    (∃ t, exec .drvStart State.reset = .next t ∧ t.drive.running ≠ State.reset.drive.running) ∧
    (∃ t, exec .scTrap (withD fun d => { d with bridgeEn := true }) = .next t ∧ t.drive.bridgeEn = false) ∧
    (∃ t, exec (.pwmMatch 2#2) (withD fun d => { d with modDepth := 251#8 }) = .next t ∧
      t.drive.cmp.get 2 = 3) := by
  refine ⟨⟨_, rfl, ?_⟩, ⟨_, rfl, ?_⟩, ⟨_, rfl, ?_⟩, ⟨_, rfl, ?_⟩, ⟨_, rfl, ?_⟩, ⟨_, rfl, ?_⟩⟩ <;> decide
theorem witness_GuardedWritesAreInCriticalSections :
    contextOf .drvStart = .mainLoop ∧
    ∃ t, exec .drvStart State.reset = .next t ∧ t.drive.bridgeEn ≠ State.reset.drive.bridgeEn :=
  ⟨rfl, _, rfl, by decide⟩
theorem witness_PriorityNeverChangesResult :
    interruptPriority .scTrap = some 3 ∧ interruptPriority (.pwmMatch 2#2) = some 2 ∧ (3 : Nat) ≠ 2 ∧
    Instr.wellFormed .scTrap = true ∧ Instr.wellFormed (.pwmMatch 2#2) = true := by decide
theorem witness_CaptureRecordsDelta :
    (6#16 : Half) = (if (1#1 : BitVec 1) = 1#1 ∧ (0x7FFF#16 : Half).toNat < State.reset.cfg.capLow then
      BitVec.ofNat 16 (((5#16 : Half).toNat + 1) % 2 ^ 16) else 5#16) ∧
    0x67FFF = (6#16 : Half).toNat * 2 ^ 16 + (0x7FFF#16 : Half).toNat := by decide
/-- The three cases of R167 at the ends of their latencies: no unserviced wrap; one after the edge, as late as
admitted; one before it, as old as admitted. -/
theorem witness_CaptureTiming :
    CaptureTiming Config.reference 0x2FFFF 0x2FFFF 2 false ∧
    CaptureTiming Config.reference 0x28000 0x30000 2 true ∧
    CaptureTiming Config.reference 0x37FFF 0x3FFFF 2 true := by
  refine ⟨?_, ?_, ?_⟩ <;> constructor <;> decide
theorem witness_TimestampIsTrueTime :
    CaptureTiming State.reset.cfg 0x37FFF 0x3FFFF 2 (decide ((1#1 : BitVec 1) = 1#1)) ∧
    (withP fun p => { p with lastCaptureTime := 0x21000#32, ovfCount := 2#16 }).press.lastCaptureTime =
      BitVec.ofNat 32 0x21000 ∧ 0x21000 ≤ 0x37FFF ∧ (2#16 : Half) = BitVec.ofNat 16 2 :=
  ⟨witness_CaptureTiming.2.2, by decide, by decide, by decide⟩
theorem witness_ConsumeFiltersPendingSample :
    State.reset.press.pending = false ∧ (0x3FF#32 : Word).toNat < State.reset.cfg.periodMin ∧
    State.reset.cfg.periodMax < (0x100000#32 : Word).toNat ∧
    State.reset.cfg.periodMin ≤ (0x400#32 : Word).toNat ∧ (0xFFFFF#32 : Word).toNat ≤ State.reset.cfg.periodMax ∧
    (∀ k : Fin 3, (⟨0, 0, 0x400#32⟩ : File3 Word).get k =
      if k = 2 then 0x400#32 else (⟨0, 0, 0⟩ : File3 Word).get k) := by decide
theorem witness_MedianIsSecondSmallest :
    ((3#32 : Word).toNat ≤ (5#32 : Word).toNat ∧ (5#32 : Word).toNat ≤ (9#32 : Word).toNat) ∧
    ¬(((3#32 : Word).toNat ≤ (1#32 : Word).toNat ∧ (1#32 : Word).toNat ≤ (9#32 : Word).toNat) ∨
      ((9#32 : Word).toNat ≤ (1#32 : Word).toNat ∧ (1#32 : Word).toNat ≤ (3#32 : Word).toNat)) := by decide
theorem witness_RingStartsUpWithZeros :
    (0x1000#32 : Word) = recon State.reset.cfg 0#16 0x1000#16 (flagOf 0#1) - State.reset.press.lastCaptureTime ∧
    (0x1200#32 : Word) = recon State.reset.cfg 0#16 0x2200#16 (flagOf 0#1) -
      recon State.reset.cfg 0#16 0x1000#16 (flagOf 0#1) ∧
    (0xEF00#32 : Word) = recon State.reset.cfg 0#16 0x1100#16 (flagOf 1#1) -
      recon State.reset.cfg 0#16 0x2200#16 (flagOf 0#1) ∧
    plausible State.reset.cfg 0x1000#32 = true ∧ plausible State.reset.cfg 0x1200#32 = true ∧
    plausible State.reset.cfg 0xEF00#32 = true ∧ State.reset.press.ovfCount = 0#16 ∧
    State.reset.press.ring = ⟨0, 0, 0⟩ ∧ State.reset.press.ringIdx = 0 ∧
    NoCaptureWhilePending (.capEdge 0x1000#16 0#1) State.reset := by
  refine ⟨by decide, by decide, by decide, by decide, by decide, by decide, rfl, rfl, rfl, fun _ => rfl⟩
theorem witness_ByteStartsFrameOrIsDiscarded :
    ((withS fun f => { f with lineIdle := true }).ser.fState = .idle ∧
      (withS fun f => { f with lineIdle := true }).ser.lineIdle = true) ∧
    (State.reset.ser.fState = .idle ∧ State.reset.ser.lineIdle = false) ∧
    (withS fun f => { f with fState := .validating }).ser.fState = .validating ∧
    (withS fun f => { f with fState := .responding }).ser.fState = .responding := by decide
theorem witness_FrameBytesFillTheirFields : ∀ n ∈ [0#4, 1#4, 2#4, 3#4, 4#4, 5#4, 6#4, 7#4],
    (withS fun f => { f with fState := .receiving, rxCount := n }).ser.fState = .receiving ∧
    (withS fun f => { f with fState := .receiving, rxCount := n }).ser.rxCount = n := by decide
/-- Counts 125 and 126 (R191), the guard interval (R192). -/
theorem witness_PollValidatesOrWaits :
    State.reset.ser.fState = .idle ∧ 3 + 2 * (2#16 : Half).toNat + 2 ≤ (9#8 : Byte).toNat ∧
    (false = false ∧ (0xEB85#16 : Half) = 0xEB85#16 ∧ (125#16 : Half).toNat ≤ 125) ∧
    ¬(false = false ∧ (0xEAC5#16 : Half) = 0xEAC5#16 ∧ (126#16 : Half).toNat ≤ 125) := by decide
/-- The header, a high byte, a low byte, both trailer bytes, at the largest count. -/
theorem witness_PollEmitsNextByte : ∀ k ∈ [0, 1, 2, 3, 252, 253, 254],
    (withS fun f => { f with fState := .responding, regCount := 125#16, cursor := BitVec.ofNat 8 k }).ser.fState =
      .responding ∧ k = (BitVec.ofNat 8 k).toNat ∧ (125#16 : Half).toNat ≤ 125 ∧
    k < 3 + 2 * (125#16 : Half).toNat + 2 := by decide
theorem witness_GuardEndsResponse :
    ((withS fun f => { f with fState := .responding, cursor := 5#8 }).ser.fState = .responding ∧
      (5#8 : Byte).toNat = 3 + 2 * (0#16 : Half).toNat + 2) ∧
    ¬(State.reset.ser.fState = .responding ∧
      State.reset.ser.cursor.toNat = 3 + 2 * State.reset.ser.regCount.toNat + 2) := by decide
theorem witness_ReadHoldingIsItsTrace :
    (0x0B#8 ++ 0xC4#8 : Half) = crc16 [1#8, 0x03#8, (0#16 : Half).extractLsb' 8 8, (0#16 : Half).extractLsb' 0 8,
      (2#16 : Half).extractLsb' 8 8, (2#16 : Half).extractLsb' 0 8] := by decide +kernel
theorem witness_ReadHoldingIsReceived :
    State.reset.ser.fState = .idle ∧
    (withS fun f => { f with fState := .receiving }).ser.fState = .receiving ∧
    (withS fun f => { f with fState := .validating }).ser.fState = .validating ∧
    (withS fun f => { f with fState := .responding }).ser.fState = .responding := by decide
/-- A frame that is answered and one whose CRC is wrong (P3). -/
theorem witness_FrameAnsweredIffValid :
    State.reset.ser.fState = .idle ∧ 1#8 = State.reset.ser.stationAddr ∧
    (0#8 : Byte).toNat * 256 + (2#8 : Byte).toNat ≤ 125 ∧
    (0x0B#8 ++ 0xC4#8 : Half) = crc16 [1#8, 0x03#8, 0#8, 0#8, 0#8, 2#8] ∧
    (0x0C#8 ++ 0xC4#8 : Half) ≠ crc16 [1#8, 0x03#8, 0#8, 0#8, 0#8, 2#8] := by decide +kernel
/-- 95 section 2.4: two registers reading 0x1234 and 0xABCD. -/
theorem witness_RequestRoundTrip :
    State.reset.ser.fState = .idle ∧ State.reset.ser.stationAddr = 1#8 ∧ (2#16 : Half).toNat ≤ 125 ∧
    [0#16, 0, 0, 0, 0x1234, 0x9999, 0xABCD, 0x7777, 0, 0].length = 1 + (5 + 2 * (2#16 : Half).toNat) ∧
    [0x1234#16, 0xABCD#16] = (List.range (2#16 : Half).toNat).map (fun j =>
      if 0#16 + BitVec.ofNat 16 j ∈ State.reset.cfg.telemetryDefined then
        ([0#16, 0, 0, 0, 0x1234, 0x9999, 0xABCD, 0x7777, 0, 0] : List Half).getD (4 + 2 * j) 0#16
      else 0#16) := by decide
/-- 95 section 2.4: the response to a request of count 0, complete. -/
def answered : Serial :=
  { State.reset.ser with fState := .responding, frmAddr := 1#8, frmFunc := 3#8, cursor := 5#8, runningCrc := 0xF020#16 }
theorem witness_CompleteResponseValidates :
    SerialInv answered [0xF0#8, 0x20#8, 0#8, 3#8, 1#8] ∧ answered.fState = .responding ∧
    answered.cursor.toNat = 3 + 2 * answered.regCount.toNat + 2 := by
  refine ⟨?_, rfl, rfl⟩
  constructor <;> decide +kernel
theorem witness_OtherGroupsHaveTheirWriters :
    (∃ t, exec (.serPoll 0#16) (withS fun f => { f with fState := .responding }) = .next t ∧ t.tx ≠ []) ∧
    (∃ t, exec .scTrap State.reset = .next t ∧ t.fault ≠ State.reset.fault) ∧
    (∃ t, exec (.cfgAddr 2#8) State.reset = .next t ∧ t.ser ≠ State.reset.ser) ∧
    (∃ t, exec .tmrOvf State.reset = .next t ∧ t.press.ovfCount ≠ State.reset.press.ovfCount) ∧
    (∃ t, exec .psConsume (withP fun p => { p with pending := true, rawDelta := 0x400#32 }) = .next t ∧
      t.press.ring = ⟨0x400#32, 0, 0⟩) := by
  refine ⟨⟨_, rfl, ?_⟩, ⟨_, rfl, ?_⟩, ⟨_, rfl, ?_⟩, ⟨_, rfl, ?_⟩, ⟨_, rfl, ?_⟩⟩ <;> decide
/-- S7: a latched short circuit and the environment's attempt to clear every fault. -/
theorem witness_LatchClearedOnlyByReset :
    ({ State.reset with fault := 1#8, inputs := [.envFault 0#8] } : State).fault.getLsbD 0 = true ∧
    ∃ t, step { State.reset with fault := 1#8, inputs := [.envFault 0#8] } = .next t ∧ t.fault = 1#8 :=
  ⟨by decide, _, rfl, by decide⟩
theorem witness_InterlockHoldsUnderPremise :
    BridgeInterlock { State.reset with inputs := [.word 0x12000000#32] } ∧
    (∃ t, step { State.reset with inputs := [.word 0x12000000#32] } = .next t) ∧
    StartsOnlyFaultFree .drvStart { State.reset with inputs := [.word 0x12000000#32] } ∧
    ({ State.reset with fault := 1#8 } : State).fault.getLsbD 0 = true :=
  ⟨fun h => absurd h (by decide), ⟨_, rfl⟩, fun _ => rfl, by decide⟩
theorem witness_StepKeepsInvariant :
    Inv (State.reset.withFetchWord 32 0x12000000) ∧
    ∃ t, step (State.reset.withFetchWord 32 0x12000000) = .next t :=
  ⟨⟨inv_reset.1, inv_reset.2, inv_reset.3, inv_reset.4⟩, _, rfl⟩
theorem witness_OnlyReservedWordsStop : Inv State.reset := inv_reset
theorem witness_ResetMeetsInvariant : configValid Config.reference = true := by decide
/-- The values of S4: QUIET = 1000, the bit set at tick 50 and cleared at 1051, not at 1050. Thresholds of 30
and 50; the pressure at reset is 100. -/
def environment : EnvConfig where
  quiet := 1000
  tSensor := 5000
  stopFrequency := 20
  baseFrequency := 100
  minFrequency := 40
  maxFrequency := 205
  stopDelay := 10
  transducer := ⟨-1, 100⟩
  onParameter := 70
  offParameter := 50
  ignoreFaults := false
def quietPass : EnvReadings where
  undervoltage := false
  overvoltage := false
  overcurrent := false
  oscillatorFailure := false
  overTemperature := false
  noFlow := false
  flowSensed := false
  commandedToRun := false
  idleTick := true
def firstEnv : EnvState := EnvState.initial environment
/-- The clauses at their boundaries: QUIET ticks and one more, each shape of bit. -/
theorem witness_DebounceWindow :
    1001 < 2 ^ 16 ∧ 1000 ≤ environment.quiet ∧ ¬ 1001 ≤ environment.quiet ∧
    configValid State.reset.cfg = true ∧
    condition environment { quietPass with undervoltage := true } State.reset .undervoltage = true ∧
    condition environment quietPass State.reset .overvoltage = false ∧
    condition environment { quietPass with overcurrent := true } State.reset .overcurrent = false := by decide
theorem test_debounce_S4 :
    (({ isSet := true, setTime := 50 } : Debounced).eval environment 16 1050 false).isSet = true ∧
    (({ isSet := true, setTime := 50 } : Debounced).eval environment 16 1051 false).isSet = false := by decide
/-- R240: a bit that RESET cleared stays clear while its condition is false, whatever its old stamp. -/
theorem test_reset_clears_debounced_bit :
    (envPass environment quietPass State.reset
      { firstEnv with setTimes := { firstEnv.setTimes with overvoltage := 5 } }).mask = 0#8 := by decide
theorem witness_RequestWithinLimits :
    environment.minFrequency ≤ environment.maxFrequency ∧ environment.maxFrequency < 2 ^ 16 ∧
    Instr.drvSetreq 0#16 ∈ (envPass environment quietPass { State.reset with fault := 1#8 } firstEnv).ops ∧
    visibleFault environment (envPass environment quietPass { State.reset with fault := 1#8 } firstEnv).mask ≠
      0#8 ∧
    (((50 : Rat) - 10) / 4 = ((((110 : Nat) : Int) - environment.baseFrequency : Int) : Rat)) ∧
    environment.minFrequency ≤ 110 ∧ 110 ≤ environment.maxFrequency := by
  refine ⟨by decide, by decide, by decide, by decide, ?_, by decide, by decide⟩
  norm_num [environment]
theorem witness_FaultForcesImmediateStop :
    environment.ignoreFaults = false ∧
    (envPass environment quietPass { State.reset with fault := 1#8 } firstEnv).mask ≠ 0#8 ∧
    configValid State.reset.cfg = true ∧
    faultSet State.reset.cfg.faultBit 1#8 .shortCircuit = true ∧
    condition environment { quietPass with overTemperature := true } State.reset .overTemperature = true := by
  decide
theorem witness_HighPressureNeverStarts :
    firstEnv.regulator.regulating = false ∧ quietPass.flowSensed = false ∧
    firstEnv.regulator.pressureOn ≤ firstEnv.regulator.pressureOff ∧
    firstEnv.regulator.pressureOff ≤
      actualPressure environment (consumeStep State.reset.cfg State.reset.drive.tick State.reset.press) ∧
    State.reset.drive.running = false ∧ State.reset.drive.reqFreq = 0 := by
  refine ⟨rfl, rfl, ?_, ?_, rfl, rfl⟩ <;> decide +kernel
/-- R241: with the trap's bit standing and the drive running, the pass requests 0 and stops. -/
theorem test_env_stops_on_fault :
    (envPass environment quietPass
      { withD (fun d => { d with running := true }) with fault := 1#8 } firstEnv).ops =
      [.psConsume, .drvSetreq 0#16, .drvStop] := by decide
/-- A capture, its pending delta, and its consumption (R165's first delta). -/
theorem witness_EveryDeltaReachesTheFilter :
    SampleHistory State.reset [] ∧ NoCaptureWhilePending (.capEdge 0x1000#16 0#1) State.reset ∧
    (∃ t, exec (.capEdge 0x1000#16 0#1) State.reset = .next t ∧ t.press.rawDelta = 0x1000#32) ∧
    State.reset.press.pending = false ∧
    (([] : List Word).filter (plausible State.reset.cfg)).reverse ++ [0#32, 0#32, 0#32] = 0#32 :: 0#32 :: 0#32 :: [] :=
  ⟨by constructor <;> decide, fun _ => rfl, ⟨_, rfl, by decide⟩, rfl, rfl⟩
/-- R166: without the premise a delta is lost. -/
theorem test_overrun_loses_delta :
    (ran (.capEdge 0x4400#16 0#1) (withP fun p =>
      { p with lastCaptureTime := 0x33000#32, rawDelta := 0x3100#32, pending := true, ovfCount := 3 })).map
      (fun t => (t.press.rawDelta, t.press.pending)) = some (0x1400#32, true) := by decide
theorem test_no_fault_at_tick_14 :
    evalMask environment quietPass (withD fun d => { d with tick := 14 }) firstEnv.setTimes = 0#8 := by decide
/-- A state and an environment per clause: no sample and no idle tick; a sample at either end of the range; the
last tick of the on-time, regulating since tick 5 with a delay of 10; a stop under a fault; a start. -/
theorem witness_RegulatorFollowsSamples :
    (sampleAccepted State.reset = false ∧ ({ quietPass with idleTick := false } : EnvReadings).idleTick = false ∧
      visibleFault environment
        (envPass environment { quietPass with idleTick := false } State.reset firstEnv).mask = 0#8) ∧
    (sampleAccepted (withP fun p => { p with pending := true, rawDelta := 0x400#32 }) = true ∧
      sampleAccepted (withP fun p => { p with pending := true, rawDelta := 0xFFFFF#32 }) = true) ∧
    (quietPass.idleTick = true ∧
      visibleFault environment (envPass environment quietPass (withD fun d => { d with tick := 14 })
        { firstEnv with regulator := { firstEnv.regulator with regulating := true, regStartTime := 5 } }).mask =
        0#8 ∧
      ((withD fun d => { d with tick := 14 }).drive.tick : Int) - ((5 : Nat) : Int) <
        firstEnv.regulator.stopDelay ∧
      environment.stopFrequency < environment.minFrequency ∧
      environment.minFrequency ≤ environment.maxFrequency ∧ environment.maxFrequency < 2 ^ 16 ∧
      16 ≤ State.reset.cfg.freqW) ∧
    Instr.drvStop ∈ (envPass environment quietPass
      { withD (fun d => { d with running := true }) with fault := 1#8 } firstEnv).ops ∧
    (Instr.drvStart ∈ (envPass environment { quietPass with idleTick := false }
        (withD fun d => { d with reqFreq := 21, tick := 7 })
        { firstEnv with regulator := { firstEnv.regulator with regulating := true } }).ops ∧
      (envPass environment { quietPass with idleTick := false }
        (withD fun d => { d with reqFreq := 21, tick := 7 })
        { firstEnv with regulator := { firstEnv.regulator with regulating := true } }).env.regulator.regStartTime =
        7) := by
  refine ⟨⟨?_, ?_, ?_⟩, ⟨?_, ?_⟩, ⟨?_, test_no_fault_at_tick_14, ?_, ?_, ?_, ?_, ?_⟩, ?_, ?_, ?_⟩ <;> decide
/-- R223: a threshold is derived through the mapping of the pressure itself, and again at a parameter change. -/
theorem test_threshold_derived :
    firstEnv.regulator.pressureOn = 30 ∧
    (setDerivedValue environment firstEnv (.pressureOff 45)).1.regulator.pressureOff = 55 := by decide +kernel

end Sys2Proof.Tests
end

section
/-! PROOFS. The waveform engine (41_waveform_engine): PWM_CARRIER, DRV_START, DRV_STOP and DRV_SETDIR. -/

namespace Sys2Proof.Machine

/-! The divider's fields (R132), and what the shifts of R133 and R134 are as divisions. -/

theorem dividerStep_subDiv (c : Config) (d : Drive) :
    (dividerStep c d).subDiv = if d.subDiv + 1 = c.rampDiv then 0 else d.subDiv + 1 := by
  unfold dividerStep
  split <;> rfl

theorem dividerStep_tick (c : Config) (d : Drive) :
    (dividerStep c d).tick =
      if d.subDiv + 1 = c.rampDiv then (d.tick + 1) % 2 ^ c.tickW else d.tick := by
  unfold dividerStep
  split <;> rfl

/-- A ramp step never passes the request, so that within FREQ_W bits the write truncates nothing. -/
theorem dividerStep_freq {c : Config} {d : Drive} (hf : d.freq < 2 ^ c.freqW)
    (hr : d.reqFreq < 2 ^ c.freqW) :
    (dividerStep c d).freq = if d.subDiv + 1 = c.rampDiv then toward d.freq d.reqFreq else d.freq := by
  have hfit : fit c.freqW (toward d.freq d.reqFreq) = toward d.freq d.reqFreq :=
    fit_of_lt (toward_lt hf hr)
  unfold dividerStep
  split
  · exact hfit
  · rfl

@[simp] theorem dividerStep_acc (c : Config) (d : Drive) : (dividerStep c d).acc = d.acc := by
  unfold dividerStep
  split <;> rfl

@[simp] theorem dividerStep_rotDir (c : Config) (d : Drive) : (dividerStep c d).rotDir = d.rotDir := by
  unfold dividerStep
  split <;> rfl

theorem indexOf_eq_div (c : Config) (acc : Nat) :
    indexOf c acc = BitVec.ofNat 8 (acc / 2 ^ c.accShift) := by
  rw [indexOf, Nat.shiftRight_eq_div_pow]

theorem depthOf_eq_div (c : Config) (f : Nat) :
    depthOf c f = BitVec.ofNat 8 (min 251 (f * c.vfGain / 2 ^ c.vfShift)) := by
  rw [depthOf, Nat.shiftRight_eq_div_pow, modMax]

/-- The advance after the divider, from the values of `acc` and `rotDir` before it (R133). -/
theorem advanceAcc_dividerStep (c : Config) (d : Drive) :
    (advanceAcc c (dividerStep c d) : Int) =
      (if d.rotDir = .forward then (d.acc : Int) + (dividerStep c d).freq
        else (d.acc : Int) - (dividerStep c d).freq) % (256 * 2 ^ c.accShift : Int) := by
  rw [advanceAcc_int, dividerStep_acc, dividerStep_rotDir, accModulus]
  push_cast
  rfl

/-- PWM_CARRIER writes six variables (R140) and leaves the rest of the group. -/
theorem carrierStep_eq_update (c : Config) (d : Drive) :
    carrierStep c d =
      { d with
        subDiv := (dividerStep c d).subDiv
        tick := (dividerStep c d).tick
        freq := (dividerStep c d).freq
        acc := advanceAcc c (dividerStep c d)
        phaseIndex := indexOf c (advanceAcc c (dividerStep c d))
        modDepth := depthOf c (dividerStep c d).freq } := by
  by_cases h : d.subDiv + 1 = c.rampDiv
  · simp only [carrierStep, dividerStep_of_eq h]
    rfl
  · simp only [carrierStep, dividerStep_of_ne h]
    rfl

/-- Settles O10: the update of PWM_CARRIER, its frequency free of truncation and its accumulator the one natural
with the residue of R133. -/
theorem carrierRampsAdvancesAndScales : Obligations.CarrierRampsAdvancesAndScales := by
  refine ⟨rfl, fun s f a hinv hf ha => ?_⟩
  have hfreq : (dividerStep s.cfg s.drive).freq = f :=
    (dividerStep_freq hinv.freq_fits hinv.req_fits).trans hf.symm
  have hacc : advanceAcc s.cfg (dividerStep s.cfg s.drive) = a := by
    have h := advanceAcc_dividerStep s.cfg s.drive
    rw [hfreq, ← ha] at h
    exact_mod_cast h
  have hdrive := carrierStep_eq_update s.cfg s.drive
  rw [hfreq, hacc, dividerStep_subDiv, dividerStep_tick, indexOf_eq_div, depthOf_eq_div] at hdrive
  exact congrArg (fun d => Host.Outcome.next (s.withDrive d)) hdrive

/-- Settles O16: the word is R91's, and the standstill and the enabling write exactly the six variables
of R141. -/
theorem startEnablesFromStandstill : Obligations.StartEnablesFromStandstill :=
  ⟨rfl, fun _ => rfl⟩

/-- Settles O17: the word is R91's, and the disabling and the standstill write exactly the six variables
of R142. -/
theorem stopDisablesAndZeroes : Obligations.StopDisablesAndZeroes :=
  ⟨rfl, fun _ => rfl⟩

/-- The operand of a direction word is its lowest bit (R91). -/
theorem encode_drvSetdir (d : BitVec 1) :
    encode (.drvSetdir d) = .word (0x15000000#32 ||| d.setWidth 32) := by
  revert d
  decide

/-- R23: 0 is forward and 1 reverse. -/
theorem directionOf_eq_ite (d : BitVec 1) : directionOf d = if d = 0#1 then .forward else .reverse := by
  revert d
  decide

/-- Settles O19: DRV_SETDIR writes the direction its operand names. -/
theorem setDirectionWritesBit : Obligations.SetDirectionWritesBit := by
  refine ⟨encode_drvSetdir, fun s d => ?_⟩
  rw [← directionOf_eq_ite]
  rfl

end Sys2Proof.Machine
end

section
/-! PROOFS. The pressure-period detector (42_pressure_period): TMR_OVF, CAP_EDGE, PS_CONSUME, the median and
PS_RESET. -/

namespace Sys2Proof.Machine

/-! The words the detector's statements speak in, as the operations build them: the modular increment and
difference, the timestamp, and the word of CAP_EDGE. -/

theorem half_add_one (k : Half) : k + 1 = BitVec.ofNat 16 ((k.toNat + 1) % 2 ^ 16) := by
  apply BitVec.eq_of_toNat_eq
  simp

theorem timestamp_eq_ofNat (hi c : Half) : timestamp hi c = BitVec.ofNat 32 (hi.toNat * 2 ^ 16 + c.toNat) := by
  rw [← timestamp_toNat, BitVec.ofNat_toNat, BitVec.setWidth_eq]

/-- The modular delta of R163, from the exact difference over the integers. -/
theorem ofNat_sub_eq_ofInt (n : Nat) (w : Word) :
    BitVec.ofNat 32 n - w = BitVec.ofInt 32 (((n : Int) - w.toNat) % 2 ^ 32) := by
  apply BitVec.eq_of_toNat_eq
  rw [BitVec.toNat_sub, BitVec.toNat_ofInt, BitVec.toNat_ofNat]
  omega

/-- The reconstruction (R162) is the timestamp of its upper half. -/
theorem recon_eq_ofNat (cfg : Config) (k c hi : Half) (ovf : BitVec 1)
    (hhi : hi = if ovf = 1#1 ∧ c.toNat < cfg.capLow then BitVec.ofNat 16 ((k.toNat + 1) % 2 ^ 16) else k) :
    recon cfg k c (flagOf ovf) = BitVec.ofNat 32 (hi.toNat * 2 ^ 16 + c.toNat) := by
  rw [← timestamp_eq_ofNat, hhi, ← half_add_one, recon]
  simp only [flagOf, Bool.and_eq_true, decide_eq_true_eq]

/-- The operands of a capture word: the flag at bit 16, the counter below (R91). -/
theorem encode_capEdge (c : Half) (ovf : BitVec 1) :
    encode (.capEdge c ovf) = .word (0x21000000#32 ||| (ovf.setWidth 32 <<< 16) ||| c.setWidth 32) := by
  have hflag : (0x1080#15 ++ ovf : Half).setWidth 32 <<< 16 = 0x21000000#32 ||| (ovf.setWidth 32 <<< 16) := by
    revert ovf
    decide
  rw [← hflag, ← BitVec.setWidth_append_eq_shiftLeft_setWidth_or, BitVec.setWidth_eq]
  rfl

/-- Settles O26: the counter's addition is modulo its width. -/
theorem overflowCounts : Obligations.OverflowCounts := by
  refine ⟨rfl, fun s => ?_⟩
  rw [← half_add_one]
  rfl

/-- Settles O27: the capture records the reconstruction, its modular difference to the previous one, and
`pending`. -/
theorem captureRecordsDelta : Obligations.CaptureRecordsDelta := by
  refine ⟨encode_capEdge, fun s c ovf hi ts hhi hts => ?_⟩
  rw [← ofNat_sub_eq_ofInt, hts, ← recon_eq_ofNat s.cfg s.press.ovfCount c hi ovf hhi]
  rfl

/-! The three outcomes of a consumption, each under its own condition. -/

/-- Two files that read the same are the same. -/
theorem File3.eq_of_get {α : Type} {f g : File3 α} (h : ∀ k, f.get k = g.get k) : f = g :=
  File3.ext (h 0) (h 1) (h 2)

theorem exec_psConsume_idle {s : State} (hp : s.press.pending = false) : exec .psConsume s = .next s := by
  show Host.Outcome.next _ = _
  rw [consumeStep, hp]
  rfl

theorem exec_psConsume_discard {s : State} (hp : s.press.pending = true)
    (hd : plausible s.cfg s.press.rawDelta = false) :
    exec .psConsume s = .next (s.withPress { s.press with pending := false }) := by
  show Host.Outcome.next _ = _
  rw [consumeStep, hp, hd]
  rfl

theorem plausible_eq_false {cfg : Config} {d : Word} (h : d.toNat < cfg.periodMin ∨ cfg.periodMax < d.toNat) :
    plausible cfg d = false := by
  rw [Bool.eq_false_iff, ne_eq, plausible_iff]
  omega

/-- Settles O29: the slots a push leaves are the file that reads the sample at the index and the old slots
elsewhere. -/
theorem consumeFiltersPendingSample : Obligations.ConsumeFiltersPendingSample := by
  refine ⟨rfl, fun s => exec_psConsume_idle,
    fun s hp hd => exec_psConsume_discard hp (plausible_eq_false hd), fun s r hp hmin hmax hr => ?_⟩
  have hpush : r = s.press.ring.set s.press.ringIdx s.press.rawDelta :=
    File3.eq_of_get fun k => (hr k).trans (File3.get_set ..).symm
  rw [exec_psConsume_accept hp ((plausible_iff ..).mpr ⟨hmin, hmax⟩), hpush]
  rfl

/-- The median's case split on the unsigned values of the slots (R171). -/
theorem median3_eq_ite (a b c : Word) :
    median3 a b c =
      if (b.toNat ≤ a.toNat ∧ a.toNat ≤ c.toNat) ∨ (c.toNat ≤ a.toNat ∧ a.toNat ≤ b.toNat) then a
      else if (a.toNat ≤ b.toNat ∧ b.toNat ≤ c.toNat) ∨ (c.toNat ≤ b.toNat ∧ b.toNat ≤ a.toNat) then b
      else c := rfl

/-- Settles O30: the value whatever the slot, then the slot chosen. -/
theorem medianIsSecondSmallest : Obligations.MedianIsSecondSmallest := fun a b c =>
  ⟨median3_toNat a b c, fun h => (median3_eq_ite a b c).trans (if_pos h),
    fun h => (median3_eq_ite a b c).trans (if_neg h)⟩

/-- Settles O32: the word is R91's, and the reset values are written over all but `ovfCount`. -/
theorem detectorResetClearsWorkingSet : Obligations.DetectorResetClearsWorkingSet :=
  ⟨rfl, fun _ => rfl⟩

end Sys2Proof.Machine
end

section
/-! PROOFS. The serial responder (43_serial): RX_SILENCE, SER_POLL, TX_GUARD and CFG_ADDR. -/

namespace Sys2Proof.Machine

/-! The words of R91 with an operand, as their opcode or'ed with it. -/

theorem append_eq_shiftLeft_or {m n : Nat} (x : BitVec m) (y : BitVec n) :
    x ++ y = x.setWidth (m + n) <<< n ||| y.setWidth (m + n) :=
  (BitVec.setWidth_eq _).symm.trans BitVec.setWidth_append_eq_shiftLeft_setWidth_or

theorem encode_serPoll (t : Half) : encode (.serPoll t) = .word (0x32000000#32 ||| t.setWidth 32) :=
  congrArg Input.word (append_eq_shiftLeft_or ..)

theorem encode_cfgAddr (a : Byte) : encode (.cfgAddr a) = .word (0x34000000#32 ||| a.setWidth 32) :=
  congrArg Input.word (append_eq_shiftLeft_or ..)

/-! One byte of a response (R194 to R197): the register that is latched, the byte, and the state after it. -/

theorem isHighByte_iff (f : Serial) (k : Nat) :
    isHighByte f k = true ↔ 3 ≤ k ∧ k < 3 + 2 * f.regCount.toNat ∧ (k - 3) % 2 = 0 := by
  simp only [isHighByte, Bool.and_eq_true, decide_eq_true_eq, beq_iff_eq, and_assoc]

/-- Register addresses are modulo 2^16 (R63). -/
theorem registerAddress_eq_ofNat (f : Serial) (j : Nat) :
    registerAddress f j = BitVec.ofNat 16 ((f.startReg.toNat + j) % 2 ^ 16) := by
  apply BitVec.eq_of_toNat_eq
  simp [registerAddress]

theorem telemetry_eq_ite (c : Config) (r t : Half) :
    telemetry c r t = if r ∈ c.telemetryDefined then t else 0#16 := by
  simp only [telemetry, List.contains_iff_mem]
  rfl

/-- `regLatch` is the only field a poll may sample (R195). -/
theorem latchStep_eq_update (c : Config) (t : Half) (f : Serial) :
    latchStep c t f =
      { f with
        regLatch :=
          if isHighByte f f.cursor.toNat then
            telemetry c (registerAddress f ((f.cursor.toNat - 3) / 2)) t
          else f.regLatch } := by
  unfold latchStep
  split <;> rfl

/-- The byte count is modulo 256 (R194). -/
theorem byteCount_mod (n : Nat) : BitVec.ofNat 8 (2 * n % 256) = BitVec.ofNat 8 (2 * n) := by
  apply BitVec.eq_of_toNat_eq
  simp

theorem byte_add_one (k : Byte) : k + 1 = BitVec.ofNat 8 (k.toNat + 1) := by
  apply BitVec.eq_of_toNat_eq
  simp

/-- The state after a byte, from the register latched and the byte sent. -/
theorem emitNext_eq_update {s : State} {t latch : Half} {out : Byte}
    (hlatch : latchStep s.cfg t s.ser = { s.ser with regLatch := latch })
    (hout : responseByte { s.ser with regLatch := latch } s.ser.cursor.toNat = out) :
    emitNext t s =
      { s with
        ser := { s.ser with
          regLatch := latch
          runningCrc := if s.ser.cursor.toNat < 3 + 2 * s.ser.regCount.toNat
            then crcUpdate s.ser.runningCrc out else s.ser.runningCrc
          cursor := BitVec.ofNat 8 (s.ser.cursor.toNat + 1) }
        tx := out :: s.tx } := by
  rw [← byte_add_one, emitNext, hlatch, ← hout]
  rfl

/-- Settles O39: the register latched is the one whose high byte is due, the byte is that of R194 to R197, and
the update follows from the two. The bound on the count is not needed: the cursor counts modulo 256. -/
theorem pollEmitsNextByte : Obligations.PollEmitsNextByte := by
  rintro s t k n latch out hs rfl rfl - hk hlatch hout
  have hl : latchStep s.cfg t s.ser = { s.ser with regLatch := latch } := by
    rw [latchStep_eq_update, hlatch]
    simp only [isHighByte_iff, telemetry_eq_ite, registerAddress_eq_ofNat]
  have hb : responseByte { s.ser with regLatch := latch } s.ser.cursor.toNat = out := by
    rw [hout, byteCount_mod]
    rfl
  rw [exec_serPoll_emit t hs hk, emitNext_eq_update hl hb]

/-- Settles O35: the word is R91's, and silence writes the two variables of R185. -/
theorem silenceAbandonsPartialFrame : Obligations.SilenceAbandonsPartialFrame :=
  ⟨rfl, fun _ => rfl⟩

/-! A poll by frame state, and the outcome of a validation (R191 to R193). -/

theorem exec_serPoll_listening {s : State} (t : Half) (h : s.ser.fState = .idle ∨ s.ser.fState = .receiving) :
    exec (.serPoll t) s = .next s := by
  rcases h with h | h <;> simp only [exec, execSerPoll, h]

/-- The condition of R191. -/
theorem frameAccepted_iff (f : Serial) :
    frameAccepted f = true ↔ f.ignore = false ∧ f.runningCrc = f.rxCrc ∧ f.regCount.toNat ≤ 125 := by
  simp only [frameAccepted, Bool.and_eq_true, Bool.not_eq_true', beq_iff_eq, decide_eq_true_eq, and_assoc]
  exact Iff.rfl

theorem validateStep_of_accepted {f : Serial} (h : frameAccepted f = true) :
    validateStep f = { f with fState := .responding, cursor := 0, runningCrc := crcInit } := if_pos h

theorem validateStep_of_rejected {f : Serial} (h : ¬ frameAccepted f = true) :
    validateStep f = { f with fState := .idle } := if_neg h

/-- Settles O38: the poll in each frame state, and both outcomes of the validation. -/
theorem pollValidatesOrWaits : Obligations.PollValidatesOrWaits := by
  refine ⟨encode_serPoll, fun s t hs hk => ⟨exec_serPoll_emit t hs hk, _, rfl⟩,
    fun s t => exec_serPoll_listening t, fun s t hs hk => exec_serPoll_guard t hs (Nat.not_lt.mpr hk),
    fun s t hs hv => ?accepted, fun s t hs hv => ?rejected⟩
  case accepted =>
    rw [exec_serPoll_validating t hs, validateStep_of_accepted ((frameAccepted_iff _).mpr hv)]
    rfl
  case rejected =>
    rw [exec_serPoll_validating t hs, validateStep_of_rejected (mt (frameAccepted_iff _).mp hv)]
    rfl

theorem guardStep_of_complete {f : Serial} (h : f.fState = .responding ∧ f.cursor.toNat = responseLength f) :
    guardStep f = { f with fState := .idle, lineIdle := true } := if_pos h

theorem guardStep_of_incomplete {f : Serial}
    (h : ¬(f.fState = .responding ∧ f.cursor.toNat = responseLength f)) : guardStep f = f := if_neg h

/-- Settles O40: the guard interval ends a response whose cursor is at its length (R190), and nothing else. -/
theorem guardEndsResponse : Obligations.GuardEndsResponse :=
  ⟨rfl, fun s hs hk => congrArg (fun f => Host.Outcome.next (s.withSer f)) (guardStep_of_complete ⟨hs, hk⟩),
    fun s h => congrArg (fun f => Host.Outcome.next (s.withSer f)) (guardStep_of_incomplete h)⟩

/-- Settles O41: the word is R91's with the address as operand, and only `stationAddr` is written. -/
theorem configureAddressWritesStation : Obligations.ConfigureAddressWritesStation :=
  ⟨encode_cfgAddr, fun _ _ => rfl⟩

end Sys2Proof.Machine
end

section
/-! PROOFS. Exceptions (60_exceptions): SC_TRAP, the only trap. -/

namespace Sys2Proof.Machine

/-- In the order of R107 the short-circuit fault is bit 0. -/
theorem setFault_shortCircuit_listOrder (m : Byte) : setFault .listOrder m .shortCircuit = m ||| 1#8 := rfl

/-- The whole effect of SC_TRAP (R236): the bridge flag and the fault mask are written, all else stays. -/
theorem exec_scTrap (s : State) :
    exec .scTrap s = .next
      { s with
        drive := s.drive.bridgeOff
        fault := setFault s.cfg.faultBit s.fault .shortCircuit } := rfl

/-- Settles O49: the word is R91's, the trap's two writes are `bridgeEn` and the short-circuit bit, and the mask of
that bit in the listed order is 1. -/
theorem trapDisablesBridgeAndLatches : Obligations.TrapDisablesBridgeAndLatches := by
  refine ⟨rfl, exec_scTrap, fun s hb => ?listOrder⟩
  case listOrder =>
    rw [exec_scTrap, hb, setFault_shortCircuit_listOrder]
    rfl

end Sys2Proof.Machine
end

section
/-! PROOFS. Reset (70_reset): RESET. -/

namespace Sys2Proof.Machine

/-- The whole effect of RESET (R260): from any state the reset state of its configuration, with the operations still
to come and the bytes already sent kept (log 14). -/
theorem exec_reset (s : State) :
    exec .reset s = .next { State.resetFor s.cfg with inputs := s.inputs, tx := s.tx } := rfl

/-- Settles O48: the word is R91's, and each group of the reset state (`Drive.resetFor`, `Pressure.initial`,
`Serial.resetFor`, no fault) is R260's list. -/
theorem resetWritesEveryVariable : Obligations.ResetWritesEveryVariable := by
  refine ⟨rfl, fun s => ⟨_, exec_reset s, ?drive, ?press, ?ser, ?fault⟩⟩
  case drive => rfl
  case press => rfl
  case ser => rfl
  case fault => rfl

end Sys2Proof.Machine
end

section
/-! PROOFS. Encoding (30_encoding): the rows of the opcode map, decoding after encoding and encoding after
decoding, and the reserved words. -/

namespace Sys2Proof

open Sys2Proof.Machine

/-! The rows of the opcode map as intervals of words. -/

/-- The words of a row are an interval. -/
theorem fixedAbove_iff_interval (w : Word) (lo v : Nat) :
    fixedAbove w lo v = true ↔ v * 2 ^ lo ≤ w.toNat ∧ w.toNat < (v + 1) * 2 ^ lo := by
  rw [fixedAbove_iff, Nat.div_eq_iff (by positivity), Nat.add_one_mul]
  have : 0 < 2 ^ lo := by positivity
  omega

/-- R91 lists the rows in ascending order of their words. -/
theorem opcodeRows_ascending :
    opcodeRows.Pairwise fun a b => (a.2.2 + 1) * 2 ^ a.2.1 ≤ b.2.2 * 2 ^ b.2.1 := by
  decide

/-- Settles O4: the rows are intervals, each ending before the next begins. -/
theorem opcodeRowsDisjoint : Obligations.OpcodeRowsDisjoint := fun w =>
  opcodeRows_ascending.imp fun hab ⟨ha, hb⟩ => by
    have ha := ((fixedAbove_iff_interval ..).mp ha).2
    have hb := ((fixedAbove_iff_interval ..).mp hb).1
    omega

/-- Settles O1: the words written out, as the decoder reads them. -/
theorem specWordsDecode : Obligations.SpecWordsDecode := by
  unfold Obligations.SpecWordsDecode
  decide

/-! A word cut at its row's lowest fixed bit: the fixed bits above, the operand bits below. -/

theorem toNat_append_div {m n : Nat} (x : BitVec m) (y : BitVec n) : (x ++ y).toNat / 2 ^ n = x.toNat := by
  rw [toNat_append, Nat.mul_comm, Nat.mul_add_div (by positivity), Nat.div_eq_of_lt y.isLt, Nat.add_zero]

theorem setWidth_append_low {m n : Nat} (x : BitVec m) (y : BitVec n) : (x ++ y).setWidth n = y := by
  rw [BitVec.setWidth_append, dif_pos le_rfl, BitVec.setWidth_eq]

theorem append_setWidth_of_div {m n : Nat} (x : BitVec m) {w : BitVec (m + n)}
    (h : w.toNat / 2 ^ n = x.toNat) : x ++ w.setWidth n = w := by
  apply BitVec.eq_of_toNat_eq
  rw [toNat_append, BitVec.toNat_setWidth, ← h, Nat.mul_comm, Nat.div_add_mod]

/-! What a word of each row with operand bits decodes to: no earlier row has its number. -/

theorem decodeWord_pwmMatch {w : Word} (h : w.toNat / 2 ^ 2 = 0x4400000) (hp : w.setWidth 2 ≠ 3#2) :
    decodeWord w = .ok (.pwmMatch (w.setWidth 2)) := by
  simp only [decodeWord, fixedAbove_iff]
  simp (disch := omega) only [if_neg, if_pos]

theorem decodeWord_drvSetreq {w : Word} (h : w.toNat / 2 ^ 16 = 0x1400) :
    decodeWord w = .ok (.drvSetreq (w.setWidth 16)) := by
  simp only [decodeWord, fixedAbove_iff]
  simp (disch := omega) only [if_neg, if_pos]

theorem decodeWord_drvSetdir {w : Word} (h : w.toNat / 2 ^ 1 = 0xA800000) :
    decodeWord w = .ok (.drvSetdir (w.setWidth 1)) := by
  simp only [decodeWord, fixedAbove_iff]
  simp (disch := omega) only [if_neg, if_pos]

theorem decodeWord_capEdge {w : Word} (h : w.toNat / 2 ^ 17 = 0x1080) :
    decodeWord w = .ok (.capEdge (w.setWidth 16) (w.extractLsb' 16 1)) := by
  simp only [decodeWord, fixedAbove_iff]
  simp (disch := omega) only [if_neg, if_pos]

theorem decodeWord_rxByte {w : Word} (h : w.toNat / 2 ^ 8 = 0x300000) :
    decodeWord w = .ok (.rxByte (w.setWidth 8)) := by
  simp only [decodeWord, fixedAbove_iff]
  simp (disch := omega) only [if_neg, if_pos]

theorem decodeWord_serPoll {w : Word} (h : w.toNat / 2 ^ 16 = 0x3200) :
    decodeWord w = .ok (.serPoll (w.setWidth 16)) := by
  simp only [decodeWord, fixedAbove_iff]
  simp (disch := omega) only [if_neg, if_pos]

theorem decodeWord_cfgAddr {w : Word} (h : w.toNat / 2 ^ 8 = 0x340000) :
    decodeWord w = .ok (.cfgAddr (w.setWidth 8)) := by
  simp only [decodeWord, fixedAbove_iff]
  simp (disch := omega) only [if_neg, if_pos]

/-! The two operands of a capture word. -/

theorem toNat_captureWord_div (c : Half) (ovf : BitVec 1) :
    (0x1080#15 ++ ovf ++ c : Word).toNat / 2 ^ 17 = 0x1080 := by
  have hw := toNat_wordCap 0x1080#15 ovf c
  have := ovf.isLt
  have := c.isLt
  simp at hw
  omega

theorem extractLsb'_captureWord (c : Half) (ovf : BitVec 1) :
    (0x1080#15 ++ ovf ++ c : Word).extractLsb' 16 1 = ovf := by
  apply BitVec.eq_of_toNat_eq
  have hw := toNat_wordCap 0x1080#15 ovf c
  have := ovf.isLt
  have := c.isLt
  simp only [BitVec.extractLsb'_toNat, Nat.shiftRight_eq_div_pow, hw]
  simp
  omega

theorem captureWord_of_div {w : Word} (h : w.toNat / 2 ^ 17 = 0x1080) :
    (0x1080#15 ++ w.extractLsb' 16 1 ++ w.setWidth 16 : Word) = w := by
  apply BitVec.eq_of_toNat_eq
  rw [toNat_wordCap, BitVec.extractLsb'_toNat, BitVec.toNat_setWidth, Nat.shiftRight_eq_div_pow]
  simp
  omega

/-! The bytes of a request frame. -/

/-- The fields of a frame are its bytes. -/
theorem frameByte_append (a f : Byte) (s n : Half) (l h : Byte) {x : FrameBits}
    (hx : x = a ++ f ++ s ++ n ++ l ++ h) :
    frameByte x 0 = a ∧ frameByte x 1 = f ∧ frameByte x 2 ++ frameByte x 3 = s ∧
      frameByte x 4 ++ frameByte x 5 = n ∧ frameByte x 6 = l ∧ frameByte x 7 = h := by
  have hn := (congrArg BitVec.toNat hx).trans (toNat_frame a f s n l h)
  have := a.isLt
  have := f.isLt
  have := s.isLt
  have := n.isLt
  have := l.isLt
  have := h.isLt
  refine ⟨?_, ?_, ?_, ?_, ?_, ?_⟩ <;> apply BitVec.eq_of_toNat_eq <;>
    simp only [toNat_half, frameByte_toNat] <;> omega

/-- The digits of a number to the base 256. -/
theorem div_eq_div_mul_add_byte (n k : Nat) : n / 2 ^ k = n / 2 ^ (k + 8) * 2 ^ 8 + n / 2 ^ k % 2 ^ 8 := by
  rw [Nat.pow_add, ← Nat.div_div_eq_div_mul, Nat.div_add_mod']

/-- A frame is the concatenation of its bytes. -/
theorem append_frameByte (x : FrameBits) :
    frameByte x 0 ++ frameByte x 1 ++ (frameByte x 2 ++ frameByte x 3 : Half) ++
      (frameByte x 4 ++ frameByte x 5 : Half) ++ frameByte x 6 ++ frameByte x 7 = x := by
  apply BitVec.eq_of_toNat_eq
  rw [toNat_frame, toNat_half, toNat_half]
  simp only [frameByte_toNat]
  have digit := div_eq_div_mul_add_byte x.toNat
  have htop : x.toNat / 2 ^ 56 % 2 ^ 8 = x.toNat / 2 ^ 56 := Nat.mod_eq_of_lt (Nat.div_lt_of_lt_mul x.isLt)
  have hlow : x.toNat = x.toNat / 2 ^ 8 * 2 ^ 8 + x.toNat / 2 ^ 0 % 2 ^ 8 := by
    simpa using digit 0
  linarith [digit 8, digit 16, digit 24, digit 32, digit 40, digit 48]

/-- The bytes of a frame given byte by byte. -/
theorem frameBytes_append (b0 b1 b2 b3 b4 b5 b6 b7 : Byte) :
    frameBytes (b0 ++ b1 ++ b2 ++ b3 ++ b4 ++ b5 ++ b6 ++ b7) = [b0, b1, b2, b3, b4, b5, b6, b7] := by
  have hn := toNat_frame8 b0 b1 b2 b3 b4 b5 b6 b7
  generalize (b0 ++ b1 ++ b2 ++ b3 ++ b4 ++ b5 ++ b6 ++ b7 : FrameBits) = x at hn ⊢
  simp only [frameBytes, List.cons.injEq, and_true, ← BitVec.toNat_inj, frameByte_toNat, hn]
  have := b0.isLt
  have := b1.isLt
  have := b2.isLt
  have := b3.isLt
  have := b4.isLt
  have := b5.isLt
  have := b6.isLt
  have := b7.isLt
  omega

theorem decodeFrame_readHolding (a : Byte) (s n : Half) (l h : Byte) :
    decodeFrame (a ++ fcRead ++ s ++ n ++ l ++ h) = .ok (.readHolding a s n l h) := by
  obtain ⟨h0, h1, h23, h45, h6, h7⟩ := frameByte_append a fcRead s n l h rfl
  rw [decodeFrame, if_pos h1, h0, h23, h45, h6, h7]

theorem decodeInput_encode_of_word {i : Instr} {w : Word} (he : encode i = .word w) (h : decodeWord w = .ok i) :
    decodeInput (encode i) = some (.ok i) := by
  rw [he, decodeInput, h]

/-- Settles O2: the word of each operation has the number of its row above the operand bits and the operands in
them; the bytes of the frame are its fields. -/
theorem decodeAfterEncode : Obligations.DecodeAfterEncode := by
  intro i hi
  cases i with
  | pwmMatch p =>
    have hlow := setWidth_append_low 0x4400000#30 p
    have hp : (0x4400000#30 ++ p).setWidth 2 ≠ 3#2 := by
      rw [hlow]
      exact bne_iff_ne.mp hi
    refine decodeInput_encode_of_word rfl ?_
    rw [decodeWord_pwmMatch (toNat_append_div 0x4400000#30 p) hp, hlow]
  | drvSetreq v =>
    refine decodeInput_encode_of_word rfl ?_
    rw [decodeWord_drvSetreq (toNat_append_div 0x1400#16 v), setWidth_append_low 0x1400#16 v]
  | drvSetdir d =>
    refine decodeInput_encode_of_word rfl ?_
    rw [decodeWord_drvSetdir (toNat_append_div 0xA800000#31 d), setWidth_append_low 0xA800000#31 d]
  | capEdge c ovf =>
    refine decodeInput_encode_of_word rfl ?_
    rw [decodeWord_capEdge (toNat_captureWord_div c ovf), extractLsb'_captureWord,
      setWidth_append_low (0x1080#15 ++ ovf) c]
  | rxByte b =>
    refine decodeInput_encode_of_word rfl ?_
    rw [decodeWord_rxByte (toNat_append_div 0x300000#24 b), setWidth_append_low 0x300000#24 b]
  | serPoll t =>
    refine decodeInput_encode_of_word rfl ?_
    rw [decodeWord_serPoll (toNat_append_div 0x3200#16 t), setWidth_append_low 0x3200#16 t]
  | cfgAddr a =>
    refine decodeInput_encode_of_word rfl ?_
    rw [decodeWord_cfgAddr (toNat_append_div 0x340000#24 a), setWidth_append_low 0x340000#24 a]
  | readHolding a s n l h => exact congrArg some (decodeFrame_readHolding a s n l h)
  | pwmCarrier | drvStart | drvStop | tmrOvf | psConsume | psReset | rxSilence | txGuard | reset | scTrap => rfl

/-! What decodes to an operation is that operation's object. -/

/-- An answer of the decoder from which `encode` gives the word `w` back. -/
def ReadsBack (w : Word) (r : Except Reserved Instr) : Prop :=
  ∀ i, r = .ok i → encode i = .word w ∧ i.wellFormed = true

theorem readsBack_error (w : Word) (why : Reserved) : ReadsBack w (.error why) :=
  fun _ h => nomatch h

theorem readsBack_ok {w : Word} {i : Instr} (he : encode i = .word w) (hi : i.wellFormed = true) :
    ReadsBack w (.ok i) := by
  rintro _ ⟨⟩
  exact ⟨he, hi⟩

/-- A row without operand bits has one word. -/
theorem readsBack_fixed {w : Word} {v : Nat} (i : Instr) (hrow : fixedAbove w 0 v = true)
    (he : encode i = .word (BitVec.ofNat 32 v)) (hi : i.wellFormed = true) : ReadsBack w (.ok i) := by
  rw [fixedAbove_iff, Nat.pow_zero, Nat.div_one] at hrow
  rw [← hrow, BitVec.ofNat_toNat, BitVec.setWidth_eq] at he
  exact readsBack_ok he hi

/-- A row with operand bits has the words of its fixed bits above them. -/
theorem readsBack_operand {w u : Word} {lo v : Nat} {i : Instr} (hrow : fixedAbove w lo v = true)
    (he : encode i = .word u) (hu : w.toNat / 2 ^ lo = v → u = w) (hi : i.wellFormed = true) :
    ReadsBack w (.ok i) :=
  readsBack_ok (hu ((fixedAbove_iff ..).mp hrow) ▸ he) hi

theorem readsBack_ite {w : Word} {c : Prop} [Decidable c] {a b : Except Reserved Instr}
    (ha : c → ReadsBack w a) (hb : ¬c → ReadsBack w b) : ReadsBack w (if c then a else b) := by
  split
  · exact ha ‹c›
  · exact hb ‹¬c›

theorem readsBack_matchRow {w : Word} (hrow : fixedAbove w 2 0x4400000 = true) :
    ReadsBack w (if w.setWidth 2 = 3#2 then .error .phase else .ok (.pwmMatch (w.setWidth 2))) :=
  readsBack_ite (fun _ => readsBack_error w _) fun hp =>
    readsBack_operand hrow rfl (append_setWidth_of_div (n := 2) 0x4400000#30) (bne_iff_ne.mpr hp)

/-- Along the rows of the opcode map, in the decoder's order. -/
theorem readsBack_decodeWord (w : Word) : ReadsBack w (decodeWord w) :=
  readsBack_ite (readsBack_fixed .pwmCarrier · rfl rfl) fun _ =>
  readsBack_ite readsBack_matchRow fun _ =>
  readsBack_ite (readsBack_fixed .drvStart · rfl rfl) fun _ =>
  readsBack_ite (readsBack_fixed .drvStop · rfl rfl) fun _ =>
  readsBack_ite (readsBack_operand · rfl (append_setWidth_of_div (n := 16) 0x1400#16) rfl) fun _ =>
  readsBack_ite (readsBack_operand · rfl (append_setWidth_of_div (n := 1) 0xA800000#31) rfl) fun _ =>
  readsBack_ite (readsBack_fixed .tmrOvf · rfl rfl) fun _ =>
  readsBack_ite (readsBack_operand · rfl captureWord_of_div rfl) fun _ =>
  readsBack_ite (readsBack_fixed .psConsume · rfl rfl) fun _ =>
  readsBack_ite (readsBack_fixed .psReset · rfl rfl) fun _ =>
  readsBack_ite (readsBack_operand · rfl (append_setWidth_of_div (n := 8) 0x300000#24) rfl) fun _ =>
  readsBack_ite (readsBack_fixed .rxSilence · rfl rfl) fun _ =>
  readsBack_ite (readsBack_operand · rfl (append_setWidth_of_div (n := 16) 0x3200#16) rfl) fun _ =>
  readsBack_ite (readsBack_fixed .txGuard · rfl rfl) fun _ =>
  readsBack_ite (readsBack_operand · rfl (append_setWidth_of_div (n := 8) 0x340000#24) rfl) fun _ =>
  readsBack_ite (readsBack_fixed .reset · rfl rfl) fun _ =>
  readsBack_ite (readsBack_fixed .scTrap · rfl rfl) fun _ => readsBack_error w _

theorem encode_of_decodeFrame {f : FrameBits} {i : Instr} (h : decodeFrame f = .ok i) :
    encode i = .frame f ∧ i.wellFormed = true := by
  unfold decodeFrame at h
  split at h
  · cases h
    refine ⟨congrArg Input.frame ?_, rfl⟩
    rw [← ‹frameByte f 1 = fcRead›]
    exact append_frameByte f
  · cases h

/-- Settles O3: an answer of the word decoder reads back, and a frame is the concatenation of its bytes. -/
theorem encodeAfterDecode : Obligations.EncodeAfterDecode := by
  intro x i h
  cases x with
  | word w => exact readsBack_decodeWord w i (Option.some.inj h)
  | frame f => exact encode_of_decodeFrame (Option.some.inj h)
  | envFault mask => cases h

/-! The words that decode to nothing (R110). -/

theorem eq_reservedPhase_iff (w : Word) :
    w = 0x11000003#32 ↔ fixedAbove w 2 0x4400000 = true ∧ w.setWidth 2 = 3#2 := by
  rw [fixedAbove_iff, ← BitVec.toNat_inj, ← BitVec.toNat_inj, BitVec.toNat_setWidth]
  simp
  omega

theorem decodeWord_eq_error_iff (w : Word) :
    (∃ why, decodeWord w = .error why) ↔
      (∀ r ∈ opcodeRows, fixedAbove w r.2.1 r.2.2 = false) ∨ w = 0x11000003#32 := by
  rw [eq_reservedPhase_iff]
  simp only [decodeWord, opcodeRows, List.cons_append, List.nil_append, List.forall_mem_cons, List.not_mem_nil,
    false_implies, implies_true, and_true, ite_eq_iff, reduceCtorEq, and_false, false_or, Except.error.injEq,
    exists_or, exists_and_left, exists_eq', Bool.not_eq_true]
  cases hrow : fixedAbove w 2 0x4400000 with
  | false => simp
  | true =>
    have hfirst : fixedAbove w 0 0x10000000 = false := by
      rw [fixedAbove_iff] at hrow
      rw [fixedAbove_eq_false_iff]
      omega
    simp [hfirst]

end Sys2Proof
end

section
/-! PROOFS. The step: the operation, the environment's object or the refusal it answers with. -/

namespace Sys2Proof.Machine

theorem stepInput_of_decodeInput {x : Input} {i : Instr} (h : decodeInput x = some (.ok i)) (s : State) :
    stepInput x s = exec i s := by
  cases x with
  | word w => rw [stepInput, Option.some.inj h]
  | frame f => rw [stepInput, Option.some.inj h]
  | envFault mask => cases h

theorem step_of_decodeInput {s : State} {x : Input} {rest : List Input} {i : Instr}
    (hc : configValid s.cfg = true) (hin : s.inputs = x :: rest) (h : decodeInput x = some (.ok i)) :
    step s = exec i (s.withInputs rest) :=
  (step_of_cons hc hin).trans (stepInput_of_decodeInput h _)

/-- Settles O6: an object that decodes runs as the operation decoded. -/
theorem stepRunsDecodedOperation : Obligations.StepRunsDecodedOperation := fun _ _ _ _ => step_of_decodeInput

theorem decodeInput_of_decodeTableWord {nbits w : Nat} {i : Instr} (h : decodeTableWord nbits w = some i) :
    decodeInput (tableInput nbits w) = some (.ok i) := by
  unfold decodeTableWord at h
  split at h
  · cases h
    assumption
  · cases h

/-- Settles O7: the object issued stands at the head, and taking it off leaves the state it was issued to. -/
theorem issuedTableWordRuns : Obligations.IssuedTableWordRuns := fun s nbits w _ hc h =>
  step_of_decodeInput (s := s.withFetchWord nbits w) hc rfl (decodeInput_of_decodeTableWord h)

theorem stepInput_word_reserved_iff (w : Word) (s : State) :
    (∃ why, stepInput (.word w) s = .refused (.reservedWord why w)) ↔ ∃ why, decodeWord w = .error why := by
  cases h : decodeWord w with
  | ok i => simpa [stepInput, h] using fun why => exec_ne_reservedWord i s why w
  | error why => simp [stepInput, h]

/-- Settles O5: the step refuses the word exactly when the decoder does. -/
theorem reservedWordsRefused : Obligations.ReservedWordsRefused := fun s w rest hc hin => by
  rw [step_of_cons hc hin, stepInput_word_reserved_iff, decodeWord_eq_error_iff]

theorem stepInput_ne_invalidConfiguration (x : Input) (s : State) :
    stepInput x s ≠ .refused .invalidConfiguration := by
  unfold stepInput
  split
  · split
    · exact exec_ne_invalidConfiguration _ s
    · simp
  · split
    · exact exec_ne_invalidConfiguration _ s
    · simp
  · simp

theorem step_eq_invalidConfiguration_iff (s : State) :
    step s = .refused .invalidConfiguration ↔ ¬ configValid s.cfg = true := by
  refine ⟨fun h hc => ?_, step_invalid⟩
  cases hin : s.inputs with
  | nil => simp [step_of_nil hc hin] at h
  | cons x rest => exact stepInput_ne_invalidConfiguration x _ ((step_of_cons hc hin).symm.trans h)

/-- Settles O8: only the check of the configuration gives this refusal, and the check is R139's arithmetic. -/
theorem invalidConfigurationRefused : Obligations.InvalidConfigurationRefused := fun s => by
  have : 0 < 2 ^ s.cfg.cmpW := by positivity
  rw [step_eq_invalidConfiguration_iff, configValid_iff, Nat.le_sub_one_iff_lt this]

theorem getLsbD_mergeEnvFaults (b : FaultBits) (m mask : Byte) (i : Fin 8) :
    (mergeEnvFaults b m mask).getLsbD i = if i = b.shortCircuit then m.getLsbD i else mask.getLsbD i := by
  rw [mergeEnvFaults, getLsbD_writeFault]
  by_cases hi : i = b.shortCircuit
  · rw [hi]
    rfl
  · rw [if_neg hi]
    exact if_neg hi

/-- A frame with another function code, given by its bytes (R109). -/
theorem stepInput_foreignFrame {b1 : Byte} (h1 : b1 ≠ fcRead) (b0 b2 b3 b4 b5 b6 b7 : Byte) (s : State) :
    stepInput (.frame (b0 ++ b1 ++ b2 ++ b3 ++ b4 ++ b5 ++ b6 ++ b7)) s =
      runOps (rxFrame [b0, b1, b2, b3, b4, b5, b6, b7]) s := by
  have hbytes := frameBytes_append b0 b1 b2 b3 b4 b5 b6 b7
  generalize (b0 ++ b1 ++ b2 ++ b3 ++ b4 ++ b5 ++ b6 ++ b7 : FrameBits) = f at hbytes ⊢
  have hfunc : frameByte f 1 = b1 := congrArg (·.getD 1 0) hbytes
  have hdec : decodeFrame f = .error .functionCode := if_neg (hfunc ▸ h1)
  rw [runOps_rxFrame, ← hbytes, stepInput, hdec]
  rfl

/-- Settles O9: the merged mask bit by bit, the frame's bytes as received, the empty list. -/
theorem environmentObjectsRun : Obligations.EnvironmentObjectsRun := by
  refine ⟨fun s mask rest hc hin => ?mask, fun s b0 b1 b2 b3 b4 b5 b6 b7 rest hc h1 hin => ?frame,
    fun s => step_of_nil⟩
  case mask =>
    exact ⟨_, step_of_cons hc hin, getLsbD_mergeEnvFaults s.cfg.faultBit s.fault mask⟩
  case frame =>
    rw [step_of_cons hc hin, stepInput_foreignFrame h1]
    rfl

/-- What decodes is well formed, so it runs. -/
theorem stepInput_completes {x : Input} {i : Instr} (h : decodeInput x = some (.ok i)) (s : State) :
    ∃ t, stepInput x s = .next t := by
  rw [stepInput_of_decodeInput h]
  exact exec_completes i s (encodeAfterDecode x i h).2

/-- Settles O53: an object that decodes runs, and so does one that is no operation, but for a word. -/
theorem onlyReservedWordsStop : Obligations.OnlyReservedWordsStop := by
  intro s hinv
  cases hin : s.inputs with
  | nil => exact .inl ⟨s, step_of_nil hinv.config hin⟩
  | cons x rest =>
    rw [step_of_cons hinv.config hin]
    cases x with
    | word w =>
      cases hw : decodeWord w with
      | ok i => exact .inl (stepInput_completes (x := .word w) (congrArg some hw) _)
      | error why => exact .inr ⟨why, w, rest, rfl, hw⟩
    | frame f =>
      cases hf : decodeFrame f with
      | ok i => exact .inl (stepInput_completes (x := .frame f) (congrArg some hf) _)
      | error why => exact .inl ⟨_, by rw [stepInput, hf]⟩
    | envFault mask => exact .inl ⟨_, rfl⟩

end Sys2Proof.Machine
end

section
/-! PROOFS. What one operation does, said once: the group it writes and the value it writes there. -/

namespace Sys2Proof.Machine

/-- The writes of the waveform group (R73): the operation and the group after it. -/
inductive DriveWrite (c : Config) (d : Drive) : Instr → Drive → Prop
  | carrier : DriveWrite c d .pwmCarrier (carrierStep c d)
  | compare {p : BitVec 2} {q : Fin 3} (hp : phaseOf p = some q) :
      DriveWrite c d (.pwmMatch p) (matchStep c q d)
  | start : DriveWrite c d .drvStart d.standstill.enabled
  | stop : DriveWrite c d .drvStop d.disabled.standstill
  | request (v : Half) : DriveWrite c d (.drvSetreq v) { d with reqFreq := fit c.freqW v.toNat }
  | direction (b : BitVec 1) : DriveWrite c d (.drvSetdir b) { d with rotDir := directionOf b }

/-- The writes of the detector group, at the tick of the waveform group (R73). -/
inductive PressWrite (c : Config) (tick : Nat) (p : Pressure) : Instr → Pressure → Prop
  | overflow : PressWrite c tick p .tmrOvf { p with ovfCount := p.ovfCount + 1 }
  | capture (k : Half) (ovf : BitVec 1) : PressWrite c tick p (.capEdge k ovf) (captureStep c k (flagOf ovf) p)
  | consume : PressWrite c tick p .psConsume (consumeStep c tick p)
  | clear : PressWrite c tick p .psReset { Pressure.initial with ovfCount := p.ovfCount }

/-- The writes of the serial group that send nothing (R73). -/
inductive SerialWrite (f : Serial) : Instr → Serial → Prop
  | byte (b : Byte) : SerialWrite f (.rxByte b) (rxStep b f)
  | silence : SerialWrite f .rxSilence (silenceStep f)
  | validate (v : Half) (hf : f.fState = .validating) : SerialWrite f (.serPoll v) (validateStep f)
  | wait (v : Half) : SerialWrite f (.serPoll v) f
  | guardEnd : SerialWrite f .txGuard (guardStep f)
  | address (a : Byte) : SerialWrite f (.cfgAddr a) { f with stationAddr := a }
  | frame (a : Byte) (r n : Half) (l h : Byte) :
      SerialWrite f (.readHolding a r n l h)
        (receiveFrame [a, fcRead, hiByte r, loByte r, hiByte n, loByte n, l, h] f)

/-- What an operation that answers a next state has done. -/
inductive Effect (s : State) (i : Instr) : State → Prop
  | drive {d : Drive} (h : DriveWrite s.cfg s.drive i d) : Effect s i (s.withDrive d)
  | press {p : Pressure} (h : PressWrite s.cfg s.drive.tick s.press i p) : Effect s i (s.withPress p)
  | serial {f : Serial} (h : SerialWrite s.ser i f) : Effect s i (s.withSer f)
  | emit (v : Half) (hi : i = .serPoll v) (hs : s.ser.fState = .responding)
      (hk : s.ser.cursor.toNat < responseLength s.ser) : Effect s i (emitNext v s)
  | trap (hi : i = .scTrap) : Effect s i (takeTrap s)
  | reset (hi : i = .reset) : Effect s i { State.resetFor s.cfg with inputs := s.inputs, tx := s.tx }

theorem effect_of_execPwmMatch {p : BitVec 2} {s t : State} (h : execPwmMatch p s = .next t) :
    Effect s (.pwmMatch p) t := by
  unfold execPwmMatch at h
  split at h
  · cases h
    exact .drive (.compare ‹_›)
  · cases h

theorem effect_of_execSerPoll {v : Half} {s t : State} (h : execSerPoll v s = .next t) :
    Effect s (.serPoll v) t := by
  unfold execSerPoll at h
  split at h
  · cases h
    exact .serial (.validate v ‹_›)
  · split at h
    · cases h
      exact .emit v rfl ‹_› ‹_›
    · cases h
      exact .serial (.wait v)
  · cases h
    exact .serial (.wait v)
  · cases h
    exact .serial (.wait v)

theorem effect_of_exec {i : Instr} {s t : State} (h : exec i s = .next t) : Effect s i t := by
  cases i with
  | pwmMatch p => exact effect_of_execPwmMatch h
  | serPoll v => exact effect_of_execSerPoll h
  | pwmCarrier => cases h; exact .drive .carrier
  | drvStart => cases h; exact .drive .start
  | drvStop => cases h; exact .drive .stop
  | drvSetreq v => cases h; exact .drive (.request v)
  | drvSetdir b => cases h; exact .drive (.direction b)
  | tmrOvf => cases h; exact .press .overflow
  | capEdge c ovf => cases h; exact .press (.capture c ovf)
  | psConsume => cases h; exact .press .consume
  | psReset => cases h; exact .press .clear
  | rxByte b => cases h; exact .serial (.byte b)
  | rxSilence => cases h; exact .serial .silence
  | txGuard => cases h; exact .serial .guardEnd
  | cfgAddr a => cases h; exact .serial (.address a)
  | readHolding a r n l hi => cases h; exact .serial (.frame a r n l hi)
  | reset => cases h; exact .reset rfl
  | scTrap => cases h; exact .trap rfl

/-- No operation writes the configuration (R20). -/
theorem Effect.cfg_eq {i : Instr} {s t : State} (h : Effect s i t) : t.cfg = s.cfg := by
  cases h <;> rfl

end Sys2Proof.Machine
end

section
/-! PROOFS. The invariant of Safety.lean: the reset state meets it, and every step keeps it. -/

namespace Sys2Proof.Machine

/-! Each write keeps its group's part. -/

theorem driveInv_of_write {c : Config} (hc : configValid c = true) {d d' : Drive} {i : Instr}
    (h : DriveInv c d) (hw : DriveWrite c d i d') : DriveInv c d' := by
  cases hw with
  | carrier => exact driveInv_carrierStep h
  | compare hp => exact driveInv_matchStep hc h _
  | start => exact { driveInv_standstill h with }
  | stop => exact { driveInv_standstill h with }
  | request v => exact { h with req_fits := fit_lt .. }
  | direction b => exact { h with }

theorem pressInv_of_write {c : Config} {tick : Nat} (ht : tick < 2 ^ c.tickW) {p p' : Pressure} {i : Instr}
    (h : PressInv c p) (hw : PressWrite c tick p i p') : PressInv c p' := by
  cases hw with
  | overflow => exact { h with }
  | capture k ovf => exact { h with }
  | consume => exact pressInv_consumeStep h ht
  | clear => exact ⟨Nat.two_pow_pos _, rfl⟩

theorem serialInv_of_write {f f' : Serial} {i : Instr} {tx : List Byte} (h : SerialInv f tx)
    (hw : SerialWrite f i f') : SerialInv f' tx := by
  cases hw with
  | byte b => exact serialInv_rxStep h b
  | silence => exact serialInv_silenceStep h
  | validate v hf => exact serialInv_validateStep h hf
  | wait v => exact h
  | guardEnd => exact serialInv_guardStep h
  | address a => exact { h with }
  | frame a r n l hi => exact serialInv_receiveFrame h _

theorem driveInv_reset {c : Config} (hc : configValid c = true) : DriveInv c (Drive.resetFor c) where
  freq_fits := Nat.two_pow_pos _
  req_fits := Nat.two_pow_pos _
  acc_fits := accModulus_pos c
  index_derived := by simp [Drive.resetFor, indexOf]
  depth_bounded := Nat.zero_le _
  divider_bounded := ((configValid_iff c).mp hc).1
  tick_fits := Nat.two_pow_pos _
  cmp_range := fun
    | 0 | 1 | 2 => ⟨Nat.sub_le .., Nat.le_add_right ..⟩

/-- The emitted bytes do not matter while no frame is open, so RESET may keep them (log 14). -/
theorem inv_reset {c : Config} (hc : configValid c = true) (inputs : List Input) (tx : List Byte) :
    Inv { State.resetFor c with inputs := inputs, tx := tx } where
  config := hc
  drive := driveInv_reset hc
  press := ⟨Nat.two_pow_pos _, rfl⟩
  serial := serialInv_of_idle rfl tx

/-- Settles O54: RESET's values lie in their ranges. -/
theorem resetMeetsInvariant : Obligations.ResetMeetsInvariant := fun _ hc => inv_reset hc [] []

theorem inv_of_effect {s t : State} {i : Instr} (h : Inv s) (he : Effect s i t) : Inv t := by
  cases he with
  | drive hw => exact { h with drive := driveInv_of_write h.config h.drive hw }
  | press hw => exact { h with press := pressInv_of_write h.drive.tick_fits h.press hw }
  | serial hw => exact { h with serial := serialInv_of_write h.serial hw }
  | emit v hi hs hk => exact { h with serial := serialInv_emitNext h.serial hs hk v }
  | trap hi => exact { h with drive := { h.drive with } }
  | reset hi => exact inv_reset h.config s.inputs s.tx

/-- The invariant does not speak of the operations to come. -/
theorem inv_withInputs {s : State} (h : Inv s) (rest : List Input) : Inv (s.withInputs rest) := { h with }

/-- Settles O52: what a step can do is an operation, a foreign frame, or a write of the fault mask. -/
theorem stepKeepsInvariant : Obligations.StepKeepsInvariant := by
  intro s t hinv hstep
  obtain ⟨-, ⟨-, rfl⟩ | ⟨x, rest, -, hx⟩⟩ := step_cases hstep
  · exact hinv
  have hrest : Inv (s.withInputs rest) := inv_withInputs hinv rest
  obtain ⟨i, -, hexec⟩ | ⟨f, why, -, -, rfl⟩ | ⟨mask, -, rfl⟩ := hx
  · exact inv_of_effect hrest (effect_of_exec hexec)
  · exact { hrest with serial := serialInv_receiveFrame hrest.serial _ }
  · exact { hrest with }

end Sys2Proof.Machine
end

section
/-! PROOFS. Who writes what (10_state, 20_memory), from what each operation does. -/

namespace Sys2Proof.Machine

/-! Fields that a write of its group leaves. -/

@[simp] theorem matchStep_freq (c : Config) (q : Fin 3) (d : Drive) : (matchStep c q d).freq = d.freq := rfl
@[simp] theorem matchStep_reqFreq (c : Config) (q : Fin 3) (d : Drive) :
    (matchStep c q d).reqFreq = d.reqFreq := rfl
@[simp] theorem matchStep_rotDir (c : Config) (q : Fin 3) (d : Drive) : (matchStep c q d).rotDir = d.rotDir := rfl
@[simp] theorem matchStep_acc (c : Config) (q : Fin 3) (d : Drive) : (matchStep c q d).acc = d.acc := rfl
@[simp] theorem matchStep_phaseIndex (c : Config) (q : Fin 3) (d : Drive) :
    (matchStep c q d).phaseIndex = d.phaseIndex := rfl
@[simp] theorem matchStep_modDepth (c : Config) (q : Fin 3) (d : Drive) :
    (matchStep c q d).modDepth = d.modDepth := rfl
@[simp] theorem matchStep_running (c : Config) (q : Fin 3) (d : Drive) :
    (matchStep c q d).running = d.running := rfl
@[simp] theorem matchStep_bridgeEn (c : Config) (q : Fin 3) (d : Drive) :
    (matchStep c q d).bridgeEn = d.bridgeEn := rfl
@[simp] theorem matchStep_subDiv (c : Config) (q : Fin 3) (d : Drive) : (matchStep c q d).subDiv = d.subDiv := rfl
@[simp] theorem matchStep_tick (c : Config) (q : Fin 3) (d : Drive) : (matchStep c q d).tick = d.tick := rfl
@[simp] theorem matchStep_cmp (c : Config) (q : Fin 3) (d : Drive) :
    (matchStep c q d).cmp = d.cmp.set q (compareValue c q d.phaseIndex d.modDepth) := rfl

@[simp] theorem standstill_reqFreq (d : Drive) : d.standstill.reqFreq = d.reqFreq := rfl
@[simp] theorem standstill_rotDir (d : Drive) : d.standstill.rotDir = d.rotDir := rfl
@[simp] theorem standstill_running (d : Drive) : d.standstill.running = d.running := rfl
@[simp] theorem standstill_bridgeEn (d : Drive) : d.standstill.bridgeEn = d.bridgeEn := rfl
@[simp] theorem standstill_subDiv (d : Drive) : d.standstill.subDiv = d.subDiv := rfl
@[simp] theorem standstill_tick (d : Drive) : d.standstill.tick = d.tick := rfl
@[simp] theorem standstill_cmp (d : Drive) : d.standstill.cmp = d.cmp := rfl

@[simp] theorem emitNext_drive (v : Half) (s : State) : (emitNext v s).drive = s.drive := rfl
@[simp] theorem emitNext_press (v : Half) (s : State) : (emitNext v s).press = s.press := rfl
@[simp] theorem emitNext_fault (v : Half) (s : State) : (emitNext v s).fault = s.fault := rfl

@[simp] theorem consumeStep_ovfCount (c : Config) (tick : Nat) (p : Pressure) :
    (consumeStep c tick p).ovfCount = p.ovfCount := by
  obtain ⟨-, h⟩ | ⟨-, -, h⟩ | ⟨-, -, h⟩ := consumeStep_cases c tick p <;>
    exact (congrArg Pressure.ovfCount h).trans rfl

/-- The phases of R93. -/
theorem phaseOf_eq_some {p : BitVec 2} {q : Fin 3} (h : phaseOf p = some q) : p.toNat = q.val := by
  revert p q
  decide

/-- The writers of the waveform variables, over the operations that write the group. -/
theorem driveWrite_writers {c : Config} {d d' : Drive} {i : Instr} (h : DriveWrite c d i d') :
    ((d'.freq ≠ d.freq ∨ d'.modDepth ≠ d.modDepth ∨ d'.acc ≠ d.acc ∨ d'.phaseIndex ≠ d.phaseIndex) →
      i = .pwmCarrier ∨ i = .drvStart ∨ i = .drvStop) ∧
    ((d'.subDiv ≠ d.subDiv ∨ d'.tick ≠ d.tick) → i = .pwmCarrier) ∧
    (d'.reqFreq ≠ d.reqFreq → ∃ v, i = .drvSetreq v) ∧
    (d'.rotDir ≠ d.rotDir → ∃ b, i = .drvSetdir b) ∧
    (d'.running ≠ d.running → i = .drvStart ∨ i = .drvStop) ∧
    (d'.bridgeEn ≠ d.bridgeEn → i = .drvStart ∨ i = .drvStop ∨ i = .scTrap) ∧
    (∀ q : Fin 3, d'.cmp.get q ≠ d.cmp.get q → ∃ p : BitVec 2, i = .pwmMatch p ∧ p.toNat = q.val) := by
  cases h with
  | compare hp =>
    refine ⟨by simp, by simp, by simp, by simp, by simp, by simp, fun q hq => ⟨_, rfl, ?_⟩⟩
    have : q = _ := by_contra fun hne => hq (File3.get_set_of_ne _ _ hne)
    rw [this]
    exact phaseOf_eq_some hp
  | carrier | start | stop | request v | direction b => simp

/-- Settles O20: only the six operations that write the group and the trap reach it, and the trap writes only
`bridgeEn`. -/
theorem driveVariablesHaveTheirWriters : Obligations.DriveVariablesHaveTheirWriters := by
  intro i s t h hr
  cases effect_of_exec h with
  | drive hw => exact driveWrite_writers hw
  | press hw => simp
  | serial hw => simp
  | emit v hi hs hk => simp
  | trap hi => simp [hi]
  | reset hi => exact absurd hi hr

/-- Settles O21: of the writers of the five shared variables PWM_CARRIER and SC_TRAP run as interrupt and trap, the
others in the critical section. -/
theorem guardedWritesAreInCriticalSections : Obligations.GuardedWritesAreInCriticalSections := by
  intro i s t h hctx hw
  have hmain : i ≠ .reset ∧ i ≠ .pwmCarrier ∧ i ≠ .scTrap := by
    refine ⟨?_, ?_, ?_⟩ <;> rintro rfl <;> cases hctx
  obtain ⟨hreset, hcarrier, htrap⟩ := hmain
  obtain ⟨hangle, -, hreq, hdir, -, hbridge, -⟩ := driveVariablesHaveTheirWriters i s t h hreset
  have hmove : i = .drvStart ∨ i = .drvStop → inCriticalSection i := fun h => h.imp id .inl
  obtain hf | hq | hd | hm | hb := hw
  · exact hmove ((hangle (.inl hf)).resolve_left hcarrier)
  · exact .inr (.inr (.inl (hreq hq)))
  · exact .inr (.inr (.inr (hdir hd)))
  · exact hmove ((hangle (.inr (.inl hm))).resolve_left hcarrier)
  · exact hmove ((hbridge hb).imp_right fun h => h.resolve_right htrap)

/-- The writers of the detector's variables, over the operations that write the group. -/
theorem pressWrite_writers {c : Config} {tick : Nat} {p p' : Pressure} {i : Instr} (h : PressWrite c tick p i p') :
    (i = .tmrOvf ∨ (∃ k o, i = .capEdge k o) ∨ i = .psConsume ∨ i = .psReset ∨ i = .reset) ∧
    (p'.ovfCount ≠ p.ovfCount → i = .tmrOvf ∨ i = .reset) ∧
    ((p'.ring ≠ p.ring ∨ p'.filtered ≠ p.filtered ∨ p'.lastSampleAge ≠ p.lastSampleAge) →
      i = .psConsume ∨ i = .psReset ∨ i = .reset) := by
  cases h <;> simp [captureStep]

/-- The operations that write the serial group and send nothing. -/
theorem serialWrite_writers {f f' : Serial} {i : Instr} (h : SerialWrite f i f') :
    (∃ b, i = .rxByte b) ∨ i = .rxSilence ∨ (∃ v, i = .serPoll v) ∨ i = .txGuard ∨
      (∃ a, i = .cfgAddr a) ∨ (∃ a r n l h, i = .readHolding a r n l h) ∨ i = .reset := by
  cases h <;> simp

/-- Settles O47: each operation writes one group, but for a byte sent, the trap and RESET. -/
theorem otherGroupsHaveTheirWriters : Obligations.OtherGroupsHaveTheirWriters := by
  intro i s t h
  cases effect_of_exec h with
  | drive hw => simp
  | press hw =>
    obtain ⟨hi, hovf, hring⟩ := pressWrite_writers hw
    exact ⟨rfl, rfl, by simp, by simp, by simp, fun _ => hi, hovf, hring⟩
  | serial hw =>
    exact ⟨rfl, rfl, by simp, by simp, fun _ => serialWrite_writers hw, by simp, by simp, by simp⟩
  | emit v hi hs hk =>
    exact ⟨rfl, rfl, fun _ => ⟨⟨v, hi⟩, _, rfl⟩, by simp, by simp [hi], by simp, by simp, by simp⟩
  | trap hi => simp [hi]
  | reset hi => simp [hi, State.resetFor]

end Sys2Proof.Machine
end

section
/-! PROOFS. The short-circuit latch and the bridge (60_exceptions), over one step. -/

namespace Sys2Proof.Machine

/-- No operation but RESET clears the latch. -/
theorem latch_of_effect {s t : State} {i : Instr} (he : Effect s i t) (hr : i ≠ .reset)
    (hset : faultSet s.cfg.faultBit s.fault .shortCircuit = true) :
    faultSet t.cfg.faultBit t.fault .shortCircuit = true := by
  cases he with
  | drive hw => exact hset
  | press hw => exact hset
  | serial hw => exact hset
  | emit v hi hs hk => exact hset
  | trap hi => exact faultSet_setFault_self ..
  | reset hi => exact absurd hi hr

/-- Settles O50: an operation that clears the latch is RESET, whose word it is; a foreign frame does not reach the
mask and the environment's write keeps the bit. -/
theorem latchClearedOnlyByReset : Obligations.LatchClearedOnlyByReset := by
  intro s t hset hstep hword
  obtain ⟨-, ⟨-, rfl⟩ | ⟨x, rest, hin, hx⟩⟩ := step_cases hstep
  · exact hset
  obtain ⟨i, hdec, hexec⟩ | ⟨f, why, -, -, rfl⟩ | ⟨mask, -, rfl⟩ := hx
  · have hr : i ≠ .reset := by
      rintro rfl
      exact hword rest (hin.trans (congrArg (· :: rest) (encodeAfterDecode x _ hdec).1.symm))
    have he := effect_of_exec hexec
    have hcfg : t.cfg = s.cfg := he.cfg_eq
    rw [← hcfg]
    exact latch_of_effect he hr hset
  · exact hset
  · exact (shortCircuit_mergeEnvFaults ..).trans hset

/-- Of the writes of the waveform group only DRV_START enables the bridge. -/
theorem bridgeEn_of_driveWrite {c : Config} {d d' : Drive} {i : Instr} (h : DriveWrite c d i d')
    (hi : i ≠ .drvStart) (hb : d.bridgeEn = false) : d'.bridgeEn = false := by
  cases h with
  | start => exact absurd rfl hi
  | carrier | compare hp | stop | request v | direction b => simp [hb]

theorem bridgeInterlock_of_effect {s t : State} {i : Instr} (he : Effect s i t) (h : BridgeInterlock s)
    (hstart : StartsOnlyFaultFree i s) : BridgeInterlock t := by
  cases he with
  | drive hw =>
    intro hset
    have hi : i ≠ .drvStart := fun hi => ne_zero_of_faultSet hset (hstart hi)
    exact bridgeEn_of_driveWrite hw hi (h hset)
  | press hw => exact h
  | serial hw => exact h
  | emit v hi hs hk => exact h
  | trap hi => exact fun _ => rfl
  | reset hi => exact fun _ => rfl

/-- Settles O51: under the premise no operation enables the bridge while the bit is set; DRV_START by itself does not
look at the mask. -/
theorem interlockHoldsUnderPremise : Obligations.InterlockHoldsUnderPremise := by
  refine ⟨fun s t h hstep hprem => ?_, fun s _ => ⟨_, rfl, rfl, rfl⟩⟩
  obtain ⟨-, ⟨-, rfl⟩ | ⟨x, rest, hin, hx⟩⟩ := step_cases hstep
  · exact h
  obtain ⟨i, hdec, hexec⟩ | ⟨f, why, -, -, rfl⟩ | ⟨mask, -, rfl⟩ := hx
  · exact bridgeInterlock_of_effect (effect_of_exec hexec) h (hprem x rest i hin hdec)
  · exact h
  · exact fun hset => h ((shortCircuit_mergeEnvFaults ..).symm.trans hset)

end Sys2Proof.Machine
end

section
/-! PROOFS. Interrupt operations of different priority commute (60_exceptions). -/

namespace Sys2Proof.Machine

theorem runOps_pair {i j : Instr} {s u t : State} (hi : exec i s = .next u) (hj : exec j u = .next t) :
    runOps [i, j] s = .next t := by
  simp only [runOps, hi, hj]

/-- An operation that computes its group of the waveform engine from the configuration and that group, the bridge
flag going through it unread. -/
def RunsOnDrive (i : Instr) (g : Config → Drive → Drive) : Prop :=
  (∀ s : State, exec i s = .next (s.withDrive (g s.cfg s.drive))) ∧ ∀ c d, g c d.bridgeOff = (g c d).bridgeOff

/-- An operation that computes the detector group from the configuration and that group. -/
def RunsOnPress (i : Instr) (g : Config → Pressure → Pressure) : Prop :=
  ∀ s : State, exec i s = .next (s.withPress (g s.cfg s.press))

theorem eq_scTrap_of_priority {i : Instr} (h : interruptPriority i = some 3) : i = .scTrap := by
  cases i <;> simp [interruptPriority] at h
  rfl

theorem phaseOf_of_ne_three {p : BitVec 2} (h : p ≠ 3#2) : ∃ q, phaseOf p = some q := by
  revert p
  decide

theorem exec_pwmMatch {p : BitVec 2} {q : Fin 3} (h : phaseOf p = some q) (s : State) :
    exec (.pwmMatch p) s = .next (s.withDrive (matchStep s.cfg q s.drive)) := by
  show execPwmMatch p s = _
  rw [execPwmMatch, h]

theorem runsOnDrive_of_priority {i : Instr} (h : interruptPriority i = some 2) (hw : i.wellFormed = true) :
    ∃ g, RunsOnDrive i g := by
  cases i with
  | pwmCarrier => exact ⟨carrierStep, fun _ => rfl, carrierStep_bridgeOff⟩
  | pwmMatch p =>
    obtain ⟨q, hq⟩ := phaseOf_of_ne_three (bne_iff_ne.mp hw)
    exact ⟨fun c => matchStep c q, exec_pwmMatch hq, fun _ _ => rfl⟩
  | _ => simp [interruptPriority] at h

theorem runsOnPress_of_priority {i : Instr} (h : interruptPriority i = some 1) : ∃ g, RunsOnPress i g := by
  cases i with
  | tmrOvf => exact ⟨fun _ p => { p with ovfCount := p.ovfCount + 1 }, fun _ => rfl⟩
  | capEdge c ovf => exact ⟨fun cfg => captureStep cfg c (flagOf ovf), fun _ => rfl⟩
  | _ => simp [interruptPriority] at h

/-- Both orders of two operations end in one state. -/
def Commute (i j : Instr) (s : State) : Prop :=
  ∃ t, runOps [i, j] s = .next t ∧ runOps [j, i] s = .next t

theorem Commute.symm {i j : Instr} {s : State} (h : Commute i j s) : Commute j i s :=
  h.imp fun _ ht => ht.symm

theorem commute_drive_press {i j : Instr} {g : Config → Drive → Drive} {k : Config → Pressure → Pressure}
    (hi : RunsOnDrive i g) (hj : RunsOnPress j k) (s : State) : Commute i j s :=
  ⟨_, runOps_pair (hi.1 s) (hj _), runOps_pair (hj s) (hi.1 _)⟩

theorem commute_drive_trap {i : Instr} {g : Config → Drive → Drive} (hi : RunsOnDrive i g) (s : State) :
    Commute i .scTrap s := by
  refine ⟨_, runOps_pair (hi.1 s) rfl, (runOps_pair rfl (hi.1 (takeTrap s))).trans ?_⟩
  rw [takeTrap_cfg, takeTrap_drive, hi.2]
  rfl

theorem commute_press_trap {i : Instr} {k : Config → Pressure → Pressure} (hi : RunsOnPress i k) (s : State) :
    Commute i .scTrap s :=
  ⟨_, runOps_pair (hi s) rfl, runOps_pair rfl (hi (takeTrap s))⟩

theorem interruptPriority_cases {i : Instr} {m : Nat} (h : interruptPriority i = some m) :
    m = 1 ∨ m = 2 ∨ m = 3 := by
  cases i <;> simp [interruptPriority] at h <;> omega

/-- Of two priorities in order, the lower one first: detector and engine, detector and trap, engine and trap. -/
theorem commute_of_priority_lt {i j : Instr} {m n : Nat} (hm : interruptPriority i = some m)
    (hn : interruptPriority j = some n) (hlt : m < n) (hi : i.wellFormed = true) (hj : j.wellFormed = true)
    (s : State) : Commute i j s := by
  have hcases : (m = 1 ∧ n = 2) ∨ (m = 1 ∧ n = 3) ∨ (m = 2 ∧ n = 3) := by
    have := interruptPriority_cases hm
    have := interruptPriority_cases hn
    omega
  obtain ⟨rfl, rfl⟩ | ⟨rfl, rfl⟩ | ⟨rfl, rfl⟩ := hcases
  · obtain ⟨k, hk⟩ := runsOnPress_of_priority hm
    obtain ⟨g, hg⟩ := runsOnDrive_of_priority hn hj
    exact (commute_drive_press hg hk s).symm
  · obtain ⟨k, hk⟩ := runsOnPress_of_priority hm
    rw [eq_scTrap_of_priority hn]
    exact commute_press_trap hk s
  · obtain ⟨g, hg⟩ := runsOnDrive_of_priority hm hi
    rw [eq_scTrap_of_priority hn]
    exact commute_drive_trap hg s

/-- Settles O22: operations of different priority write different groups, or the bridge flag that the engine does not
read; at reset TMR_OVF before CAP_EDGE gives the capture the next upper half. -/
theorem priorityNeverChangesResult : Obligations.PriorityNeverChangesResult := by
  refine ⟨fun i j m n s hm hn hne hi hj => ?_, _, _, rfl, rfl, rfl, rfl⟩
  obtain hlt | hlt := Nat.lt_or_gt_of_ne hne
  · exact commute_of_priority_lt hm hn hlt hi hj s
  · exact (commute_of_priority_lt hn hm hlt hj hi s).symm

end Sys2Proof.Machine
end

section
/-! PROOFS. The waveform table (40_table_generator): closed facts about its 768 entries, read off the entries. -/

namespace Sys2Proof.Machine

/-- R125: every phase reaches both ends of the range. -/
theorem tableRead_reaches_ends (p : Fin 3) :
    (∃ i : Byte, tableRead p i = 127) ∧ ∃ i : Byte, tableRead p i = -127 := by
  match p with
  | 0 => exact ⟨⟨40#8, rfl⟩, 168#8, rfl⟩
  | 1 => exact ⟨⟨0#8, rfl⟩, 128#8, rfl⟩
  | 2 => exact ⟨⟨128#8, rfl⟩, 0#8, rfl⟩

/-- R125: the largest and the smallest of the three entries of an index are opposite. -/
theorem tableRead_centered (i : Byte) :
    max (tableRead 0 i) (max (tableRead 1 i) (tableRead 2 i)) +
      min (tableRead 0 i) (min (tableRead 1 i) (tableRead 2 i)) = 0 := by
  revert i
  decide +kernel

/-- R125: mirrored in time, phase U is its own opposite and V and W are each other's. -/
theorem tableRead_mirrored (i : Byte) :
    tableRead 0 i = -tableRead 0 (-i) ∧ tableRead 1 i = -tableRead 2 (-i) := by
  revert i
  decide +kernel

/-- R125: half a turn later each phase is its own opposite. -/
theorem tableRead_half_turn (p : Fin 3) (i : Byte) : tableRead p i = -tableRead p (i + 128#8) := by
  revert p i
  decide +kernel

/-- Settles O23: range, ends, centering and symmetries, each checked over the entries. -/
theorem tableRangeCenteringSymmetry : Obligations.TableRangeCenteringSymmetry :=
  ⟨tableRead_bound, tableRead_reaches_ends, tableRead_centered, tableRead_mirrored, tableRead_half_turn⟩

/-- The sum of the phases (R126). -/
theorem tableRead_sum_bound (i : Byte) :
    -110 ≤ tableRead 0 i + tableRead 1 i + tableRead 2 i ∧
      tableRead 0 i + tableRead 1 i + tableRead 2 i ≤ 110 := by
  revert i
  decide +kernel

/-- Settles O24: the sums and counts of the listed entries, evaluated. -/
theorem tableCheckSums : Obligations.TableCheckSums := by
  refine ⟨?sum, ?absU, ?absV, ?absW, ?shift85, ?shift86, tableRead_sum_bound, rfl, rfl⟩
  all_goals decide +kernel

/-- R121, R122: an entry is the generator's, with the sine of smallest absolute value and in min-max form. -/
theorem tableRead_generated (i : Byte) (p : Fin 3) :
    tableRead p i = genEntry p i.toNat ∧ tableRead p i = genEntryMinMax p i.toNat := by
  revert i p
  decide +kernel

/-- Settles O25: the generator is evaluated at every index and phase. -/
theorem tableIsGenerated : Obligations.TableIsGenerated := fun p i => tableRead_generated i p

end Sys2Proof.Machine
end

section
/-! PROOFS. The waveform engine (41_waveform_engine): the ramp law and its bound, the compare matches, DRV_SETREQ. -/

namespace Sys2Proof.Machine

/-! The ramp over one invocation and over many (R135, R146). -/

/-- Settles O11: the frequency after the divider is one unit toward the request, or the same. -/
theorem carrierRampLaw : Obligations.CarrierRampLaw := by
  intro s hinv
  refine ⟨_, rfl, ?_⟩
  have hfreq := dividerStep_freq hinv.freq_fits hinv.req_fits
  simp only [State.withDrive_drive, carrierStep_freq, carrierStep_reqFreq]
  rw [hfreq]
  have := toward_cases s.drive.freq s.drive.reqFreq
  split <;> omega

theorem toward_iterate {f r n : Nat} (h : ((r : Int) - f).natAbs ≤ n) : (toward · r)^[n] f = r := by
  induction n generalizing f with
  | zero => exact (by omega : f = r)
  | succ n ih =>
    rw [Function.iterate_succ_apply]
    apply ih
    have := toward_cases f r
    omega

/-- Counting one further modulo `r`. -/
theorem div_mod_succ {r : Nat} (hr : 0 < r) (m : Nat) :
    (m + 1) / r = m / r + (if m % r + 1 = r then 1 else 0) ∧
      (m + 1) % r = if m % r + 1 = r then 0 else m % r + 1 := by
  have hlt := Nat.mod_lt m hr
  have hm := Nat.mod_add_div m r
  rw [Nat.div_mod_unique hr]
  split
  · rw [Nat.mul_add]
    omega
  · simp only [Nat.add_zero]
    omega

/-- Where the ramp of `d` stands when the divider has counted to `m` in all. -/
structure RampedTo (c : Config) (d : Drive) (m : Nat) (e : Drive) : Prop where
  inv : DriveInv c e
  reqFreq : e.reqFreq = d.reqFreq
  subDiv : e.subDiv = m % c.rampDiv
  tick : e.tick = (d.tick + m / c.rampDiv) % 2 ^ c.tickW
  freq : e.freq = (toward · d.reqFreq)^[m / c.rampDiv] d.freq

theorem rampedTo_self {c : Config} {d : Drive} (h : DriveInv c d) : RampedTo c d d.subDiv d where
  inv := h
  reqFreq := rfl
  subDiv := (Nat.mod_eq_of_lt h.divider_bounded).symm
  tick := by rw [Nat.div_eq_of_lt h.divider_bounded, Nat.add_zero, Nat.mod_eq_of_lt h.tick_fits]
  freq := by rw [Nat.div_eq_of_lt h.divider_bounded]; rfl

theorem rampedTo_carrierStep {c : Config} {d e : Drive} {m : Nat} (h : RampedTo c d m e) :
    RampedTo c d (m + 1) (carrierStep c e) := by
  have hdiv := h.inv.divider_bounded
  obtain ⟨hq, hm⟩ := div_mod_succ (by omega : 0 < c.rampDiv) m
  rw [← h.subDiv] at hq hm
  refine ⟨driveInv_carrierStep h.inv, ?reqFreq, ?subDiv, ?tick, ?freq⟩
  case reqFreq => rw [carrierStep_reqFreq, h.reqFreq]
  case subDiv => rw [carrierStep_subDiv, dividerStep_subDiv, hm]
  case tick =>
    rw [carrierStep_tick, dividerStep_tick, hq, h.tick]
    split
    · rw [Nat.mod_add_mod, Nat.add_assoc]
    · rfl
  case freq =>
    rw [carrierStep_freq, dividerStep_freq h.inv.freq_fits h.inv.req_fits, hq, h.reqFreq]
    split
    · rw [Function.iterate_succ_apply', h.freq]
    · exact h.freq

theorem rampedTo_iterate {c : Config} {d : Drive} (h : DriveInv c d) (k : Nat) :
    RampedTo c d (d.subDiv + k) ((carrierStep c)^[k] d) := by
  induction k with
  | zero => exact rampedTo_self h
  | succ k ih =>
    rw [Function.iterate_succ_apply']
    exact rampedTo_carrierStep ih

/-- The depth is the one of the frequency the invocation leaves (R134). -/
theorem modDepth_carrier_iterate (c : Config) (d : Drive) {k : Nat} (hk : 0 < k) :
    ((carrierStep c)^[k] d).modDepth = depthOf c ((carrierStep c)^[k] d).freq := by
  obtain ⟨k, rfl⟩ := Nat.exists_eq_add_one_of_ne_zero hk.ne'
  rw [Function.iterate_succ_apply']
  rfl

theorem runOps_pwmCarrier_repeat (k : Nat) (s : State) :
    runOps (repeatTrace k [.pwmCarrier]) s = .next (s.withDrive ((carrierStep s.cfg)^[k] s.drive)) := by
  induction k generalizing s with
  | zero => rfl
  | succ k ih => exact ih (s.withDrive (carrierStep s.cfg s.drive))

/-- Settles O12: n · RAMP_DIV invocations bring the divider back and complete it n times. -/
theorem rampReachesRequest : Obligations.RampReachesRequest := by
  intro s n hinv hn
  have hpos : 0 < s.cfg.rampDiv := by
    have := hinv.divider_bounded
    omega
  have hramp := rampedTo_iterate hinv (n * s.cfg.rampDiv)
  have hq : (s.drive.subDiv + n * s.cfg.rampDiv) / s.cfg.rampDiv = n := by
    rw [Nat.add_mul_div_right _ _ hpos, Nat.div_eq_of_lt hinv.divider_bounded, Nat.zero_add]
  have hfreq := hramp.freq
  rw [hq, toward_iterate hn] at hfreq
  refine ⟨_, runOps_pwmCarrier_repeat _ s, hfreq, hramp.reqFreq, ?subDiv, ?tick, fun hn0 => ?depth⟩
  case subDiv =>
    rw [State.withDrive_drive, hramp.subDiv, Nat.add_mul_mod_self_right, Nat.mod_eq_of_lt hinv.divider_bounded]
  case tick => rw [State.withDrive_drive, hramp.tick, hq]
  case depth =>
    rw [State.withDrive_drive, modDepth_carrier_iterate _ _ (Nat.mul_pos hn0 hpos), hfreq, depthOf_eq_div]

/-! The compare matches (R137 to R139). -/

theorem phaseOf_of_toNat {p : BitVec 2} {q : Fin 3} (h : q.val = p.toNat) : phaseOf p = some q := by
  revert p q
  decide

theorem encode_pwmMatch (p : BitVec 2) : encode (.pwmMatch p) = .word (0x11000000#32 ||| p.setWidth 32) :=
  congrArg Input.word (append_eq_shiftLeft_or ..)

theorem shiftProduct_eq_ite (m : ProductShift) (x : Int) (n : Nat) :
    shiftProduct m x n = if m = .floor then x / 2 ^ n else x.tdiv (2 ^ n) := by
  cases m <;> rfl

/-- Settles O13: within R139's interval the write truncates nothing. -/
theorem matchWritesScaledEntry : Obligations.MatchWritesScaledEntry := by
  refine ⟨encode_pwmMatch, fun _ => rfl, fun s p q v hc hm hq hv => ?_⟩
  obtain ⟨hval, hlow, hhigh⟩ := compareValue_range hc q s.drive.phaseIndex hm
  rw [shiftProduct_eq_ite, ← hv] at hval
  have hnat : v.toNat = compareValue s.cfg q s.drive.phaseIndex s.drive.modDepth := by
    rw [← hval, Int.toNat_natCast]
  rw [hnat]
  exact ⟨exec_pwmMatch (phaseOf_of_toNat hq) s, hval, hlow, hhigh⟩

theorem File3.set_set {α : Type} (f : File3 α) (i : Fin 3) (v : α) : (f.set i v).set i v = f.set i v := by
  match i with
  | 0 | 1 | 2 => rfl

theorem matchStep_idem (c : Config) (q : Fin 3) (d : Drive) :
    matchStep c q (matchStep c q d) = matchStep c q d :=
  congrArg (fun f => { d with cmp := f }) (File3.set_set ..)

theorem compareValue_zero_depth {c : Config} (hc : configValid c = true) (q : Fin 3) (i : Byte) :
    compareValue c q i 0#8 = c.halfScale := by
  obtain ⟨hval, -, -⟩ := compareValue_range hc q i (m := 0#8) (by decide)
  have hzero : shiftProduct c.productShift (tableRead q i * ((0#8).toNat : Int)) c.modShift = 0 := by
    cases h : c.productShift <;> simp [shiftProduct]
  omega

/-- Settles O14: a product with depth 0 shifts to 0; a match reads nothing it writes. -/
theorem matchAtRestAndTwice : Obligations.MatchAtRestAndTwice := by
  refine ⟨fun s p q hc hq hm => ⟨_, exec_pwmMatch (phaseOf_of_toNat hq) s, ?_⟩, fun s p hp => ?_⟩
  · rw [State.withDrive_drive, matchStep_cmp, File3.get_set_self, hm, compareValue_zero_depth hc]
  · obtain ⟨q, hq⟩ := phaseOf_of_ne_three hp
    refine ⟨_, exec_pwmMatch hq s, (exec_pwmMatch hq _).trans ?_⟩
    exact congrArg (fun d => Host.Outcome.next (s.withDrive d)) (matchStep_idem ..)

/-- Settles O18: the write is modulo 2^FREQ_W, which at 16 bits and more takes every operand as it is. -/
theorem setRequestWritesTarget : Obligations.SetRequestWritesTarget := by
  refine ⟨fun v => congrArg Input.word (append_eq_shiftLeft_or ..), fun _ _ => rfl, fun s v hw => ?_⟩
  have hfit : fit s.cfg.freqW v.toNat = v.toNat :=
    fit_of_lt (v.isLt.trans_le (Nat.pow_le_pow_right (by decide) hw))
  exact congrArg (fun n => Host.Outcome.next (s.withDrive { s.drive with reqFreq := n })) hfit

end Sys2Proof.Machine
end

section
/-! PROOFS. The nominal carrier period (41_waveform_engine, 70_reset section 2): the three matches in any order. -/

namespace Sys2Proof.Machine

/-- The compare register of phase `q` holds what a match of `q` would write. -/
def Compared (c : Config) (d : Drive) (q : Fin 3) : Prop :=
  d.cmp.get q = compareValue c q d.phaseIndex d.modDepth

theorem compared_matchStep_self (c : Config) (d : Drive) (q : Fin 3) : Compared c (matchStep c q d) q :=
  File3.get_set_self ..

/-- A match writes no register but with what its own match would write. -/
theorem compared_matchStep {c : Config} {d : Drive} {r : Fin 3} (q : Fin 3) (h : Compared c d r) :
    Compared c (matchStep c q d) r := by
  by_cases hrq : r = q
  · subst hrq
    exact compared_matchStep_self c d r
  · exact (File3.get_set_of_ne _ _ hrq).trans h

/-- A trace of matches writes only `cmp`, and the register of every phase it contains. -/
theorem runOps_matches {is : List Instr} (h : ∀ i ∈ is, ∃ p q, i = .pwmMatch p ∧ phaseOf p = some q)
    (u : State) :
    ∃ t, runOps is u = .next t ∧ t = { u with drive := { u.drive with cmp := t.drive.cmp } } ∧
      (∀ q, Compared u.cfg u.drive q → Compared u.cfg t.drive q) ∧
      ∀ p q, .pwmMatch p ∈ is → phaseOf p = some q → Compared u.cfg t.drive q := by
  induction is generalizing u with
  | nil => exact ⟨u, rfl, rfl, fun _ hq => hq, fun _ _ hp => nomatch hp⟩
  | cons i is ih =>
    obtain ⟨p, q, rfl, hpq⟩ := h i List.mem_cons_self
    obtain ⟨t, hrun, hframe, hkept, hwritten⟩ :=
      ih (fun j hj => h j (List.mem_cons_of_mem _ hj)) (u.withDrive (matchStep u.cfg q u.drive))
    refine ⟨t, ?_, hframe, fun r hr => hkept r (compared_matchStep q hr), fun p' r hp hr => ?_⟩
    · simp only [runOps, exec_pwmMatch hpq, hrun]
    · obtain hp | hp := List.mem_cons.mp hp
      · cases hp
        cases hpq.symm.trans hr
        exact hkept q (compared_matchStep_self ..)
      · exact hwritten p' r hp hr

/-- The three matches of the nominal schedule, whatever their order (R266). -/
theorem runOps_nominalMatches {is : List Instr} (h : NominalMatches is) (u : State) :
    ∃ t, runOps is u = .next t ∧ t = { u with drive := { u.drive with cmp := t.drive.cmp } } ∧
      ∀ q, Compared u.cfg t.drive q := by
  have hmatches : ∀ i ∈ is, ∃ p q, i = .pwmMatch p ∧ phaseOf p = some q := by
    intro i hi
    have hi := h.mem_iff.mp hi
    simp only [List.mem_cons, List.not_mem_nil, or_false] at hi
    obtain rfl | rfl | rfl := hi
    · exact ⟨0, 0, rfl, rfl⟩
    · exact ⟨1, 1, rfl, rfl⟩
    · exact ⟨2, 2, rfl, rfl⟩
  obtain ⟨t, hrun, hframe, -, hwritten⟩ := runOps_matches hmatches u
  refine ⟨t, hrun, hframe, fun q => ?_⟩
  match q with
  | 0 => exact hwritten 0 0 (h.mem_iff.mpr (by simp)) rfl
  | 1 => exact hwritten 1 1 (h.mem_iff.mpr (by simp)) rfl
  | 2 => exact hwritten 2 2 (h.mem_iff.mpr (by simp)) rfl

/-- The floors of opposite quotients add up to 0, or to one less. -/
theorem ediv_add_neg_ediv (y : Int) {d : Int} (hd : 0 < d) : -1 ≤ y / d + -y / d ∧ y / d + -y / d ≤ 0 := by
  have h1 := Int.ediv_mul_le y hd.ne'
  have h2 := Int.lt_ediv_add_one_mul_self y hd
  have h3 := Int.ediv_mul_le (-y) hd.ne'
  have h4 := Int.lt_ediv_add_one_mul_self (-y) hd
  constructor <;> by_contra hlt <;> nlinarith

/-- Of three values whose largest and smallest are opposite, the scaled floors' add up to 0, or to one less. -/
theorem scaled_max_add_min {a b c m d : Int} (hm : 0 ≤ m) (hd : 0 < d)
    (h : max a (max b c) + min a (min b c) = 0) :
    -1 ≤ max (a * m / d) (max (b * m / d) (c * m / d)) + min (a * m / d) (min (b * m / d) (c * m / d)) ∧
      max (a * m / d) (max (b * m / d) (c * m / d)) + min (a * m / d) (min (b * m / d) (c * m / d)) ≤ 0 := by
  have hmono : Monotone fun x : Int => x * m / d := fun x y hxy =>
    Int.ediv_le_ediv hd (Int.mul_le_mul_of_nonneg_right hxy hm)
  have hneg : min a (min b c) * m = -(max a (max b c) * m) := by
    rw [← Int.neg_mul]
    congr 1
    omega
  have hmax : max (a * m / d) (max (b * m / d) (c * m / d)) = max a (max b c) * m / d := by
    rw [hmono.map_max (a := a), hmono.map_max (a := b)]
  have hmin : min (a * m / d) (min (b * m / d) (c * m / d)) = min a (min b c) * m / d := by
    rw [hmono.map_min (a := a), hmono.map_min (a := b)]
  rw [hmax, hmin, hneg]
  exact ediv_add_neg_ediv _ hd

/-- Settles O15: every register holds its own match's value, and the entries of one index are centered. -/
theorem nominalPeriodRewritesAll : Obligations.NominalPeriodRewritesAll := by
  intro s is hinv hfloor his
  obtain ⟨u, hu⟩ : ∃ u, exec .pwmCarrier s = .next u := ⟨_, rfl⟩
  have hcfg : u.cfg = s.cfg := (effect_of_exec hu).cfg_eq
  have hdepth : u.drive.modDepth.toNat ≤ 251 := (inv_of_effect hinv (effect_of_exec hu)).drive.depth_bounded
  obtain ⟨t, hrun, hframe, hcmp⟩ := runOps_nominalMatches his u
  have hval : ∀ q : Fin 3, (t.drive.cmp.get q : Int) =
      tableRead q u.drive.phaseIndex * (u.drive.modDepth.toNat : Int) / 2 ^ s.cfg.modShift +
        (s.cfg.halfScale : Int) := by
    intro q
    have hq : t.drive.cmp.get q = compareValue s.cfg q u.drive.phaseIndex u.drive.modDepth := by
      have := hcmp q
      rwa [Compared, hcfg, hframe] at this
    rw [hq, (compareValue_range hinv.config q _ hdepth).1, hfloor]
    rfl
  have hsum := scaled_max_add_min (Int.natCast_nonneg u.drive.modDepth.toNat)
    (by positivity : (0 : Int) < 2 ^ s.cfg.modShift) (tableRead_centered u.drive.phaseIndex)
  have h0 := hval 0
  have h1 := hval 1
  have h2 := hval 2
  refine ⟨u, t, hu, ?_, hframe, hval, by omega, by omega⟩
  simp only [runOps, hu, hrun]

end Sys2Proof.Machine
end

section
/-! PROOFS. The pressure-period detector over several operations (42_pressure_period): true time, the start-up of the
ring, and the history of the deltas. -/

namespace Sys2Proof.Machine

/-! The timestamp and the true time (R167). -/

/-- Under the environment's assumptions the reconstruction counts the wraps before the edge. -/
theorem recon_upper_of_timing {c : Config} {edge now serviced : Nat} {ovf : Bool}
    (h : CaptureTiming c edge now serviced ovf) :
    (if ovf && decide ((BitVec.ofNat 16 edge).toNat < c.capLow) then BitVec.ofNat 16 serviced + 1
      else BitVec.ofNat 16 serviced) = BitVec.ofNat 16 (edge / 2 ^ 16) := by
  obtain ⟨hafter, hcounted, hone, hflag, hover, hcapture⟩ := h
  have hle : edge / 2 ^ 16 ≤ now / 2 ^ 16 := Nat.div_le_div_right hafter
  have hnext : BitVec.ofNat 16 serviced + 1 = BitVec.ofNat 16 (serviced + 1) := (BitVec.ofNat_add ..).symm
  rw [BitVec.toNat_ofNat, hnext]
  simp only [hflag, Bool.and_eq_true, decide_eq_true_eq]
  split
  · rename_i hlow
    obtain ⟨hwrap, hlow⟩ := hlow
    congr 1
    omega
  · rename_i hlow
    congr 1
    omega

theorem timestamp_ofNat (n : Nat) :
    timestamp (BitVec.ofNat 16 (n / 2 ^ 16)) (BitVec.ofNat 16 n) = BitVec.ofNat 32 n := by
  apply BitVec.eq_of_toNat_eq
  rw [timestamp_toNat, BitVec.toNat_ofNat, BitVec.toNat_ofNat, BitVec.toNat_ofNat]
  omega

theorem recon_of_timing {c : Config} {edge now serviced : Nat} {ovf : Bool}
    (h : CaptureTiming c edge now serviced ovf) :
    recon c (BitVec.ofNat 16 serviced) (BitVec.ofNat 16 edge) ovf = BitVec.ofNat 32 edge := by
  rw [recon, recon_upper_of_timing h, timestamp_ofNat]

theorem ofNat_sub_ofNat {m n : Nat} (h : m ≤ n) :
    BitVec.ofNat 32 n - BitVec.ofNat 32 m = BitVec.ofNat 32 (n - m) := by
  apply BitVec.eq_of_toNat_eq
  rw [BitVec.toNat_sub, BitVec.toNat_ofNat, BitVec.toNat_ofNat, BitVec.toNat_ofNat]
  omega

/-- Settles O28: both ends of the delta are true times. -/
theorem timestampIsTrueTime : Obligations.TimestampIsTrueTime := by
  refine ⟨fun _ _ _ _ _ => recon_of_timing,
    fun s first edge now serviced ovf h hle hlast hcount => ⟨_, rfl, ?_⟩⟩
  show recon s.cfg s.press.ovfCount (BitVec.ofNat 16 edge) (flagOf ovf) - s.press.lastCaptureTime = _
  have htime : recon s.cfg (BitVec.ofNat 16 serviced) (BitVec.ofNat 16 edge) (flagOf ovf) = BitVec.ofNat 32 edge :=
    recon_of_timing h
  rw [hcount, htime, hlast, ofNat_sub_ofNat hle]

/-! A capture and its consumption (R163, R168). -/

/-- The state after an edge at `time`, its delta `d` accepted. -/
structure Sampled (s : State) (time d : Word) (t : State) : Prop where
  cfg : t.cfg = s.cfg
  ovfCount : t.press.ovfCount = s.press.ovfCount
  lastCaptureTime : t.press.lastCaptureTime = time
  pending : t.press.pending = false
  ring : t.press.ring = s.press.ring.set s.press.ringIdx d
  ringIdx : t.press.ringIdx = s.press.ringIdx + 1
  filtered : t.press.filtered = ringMedian t.press.ring

theorem runOps_capture_consume (s : State) (c : Half) (ovf : BitVec 1) {time d : Word}
    (ht : time = recon s.cfg s.press.ovfCount c (flagOf ovf)) (hd : d = time - s.press.lastCaptureTime)
    (hp : plausible s.cfg d = true) :
    ∃ t, runOps [.capEdge c ovf, .psConsume] s = .next t ∧ Sampled s time d t := by
  subst hd ht
  have hconsume := exec_psConsume_accept (s := s.withPress (captureStep s.cfg c (flagOf ovf) s.press)) rfl hp
  exact ⟨_, runOps_pair rfl hconsume, ⟨rfl, rfl, rfl, rfl, rfl, rfl, rfl⟩⟩

theorem ringMedian_one (x : Word) : ringMedian ⟨x, 0, 0⟩ = 0#32 := by
  apply BitVec.eq_of_toNat_eq
  rw [ringMedian, median3_toNat]
  simp

theorem ringMedian_two (x y : Word) : (ringMedian ⟨x, y, 0⟩).toNat = min x.toNat y.toNat := by
  rw [ringMedian, median3_toNat]
  simp

/-- Settles O31: three captures, each consumed before the next, fill the slots in order. -/
theorem ringStartsUpWithZeros : Obligations.RingStartsUpWithZeros := by
  intro s c1 c2 c3 o1 o2 o3 x y z hx hy hz px py pz hring hidx _
  obtain ⟨t1, hrun1, h1⟩ := runOps_capture_consume s c1 o1 rfl hx px
  have hring1 : t1.press.ring = ⟨x, 0, 0⟩ := by
    rw [h1.ring, hring, hidx]
    rfl
  rw [← h1.lastCaptureTime] at hy
  rw [← h1.cfg] at py
  obtain ⟨t2, hrun2, h2⟩ := runOps_capture_consume t1 c2 o2 (by rw [h1.cfg, h1.ovfCount]) hy py
  have hring2 : t2.press.ring = ⟨x, y, 0⟩ := by
    rw [h2.ring, hring1, h1.ringIdx, hidx]
    rfl
  rw [← h2.lastCaptureTime] at hz
  rw [← h1.cfg, ← h2.cfg] at pz
  obtain ⟨t3, hrun3, h3⟩ :=
    runOps_capture_consume t2 c3 o3 (by rw [h2.cfg, h2.ovfCount, h1.cfg, h1.ovfCount]) hz pz
  have hring3 : t3.press.ring = ⟨x, y, z⟩ := by
    rw [h3.ring, hring2, h2.ringIdx, h1.ringIdx, hidx]
    rfl
  refine ⟨t1, t2, t3, hrun1, hring1, ?_, fun _ => h1.pending, hrun2, hring2, ?_, fun _ => h2.pending, hrun3,
    hring3, ?_, ?_⟩
  · rw [h1.filtered, hring1, ringMedian_one]
  · rw [h2.filtered, hring2, ringMedian_two]
  · rw [h3.ringIdx, h2.ringIdx, h1.ringIdx, hidx]
    rfl
  · rw [h3.filtered, hring3]
    rfl

/-! The deltas and the ring (R166, R168 to R170). -/

theorem deltasAfter_of_driveWrite {c : Config} {d d' : Drive} {i : Instr} (h : DriveWrite c d i d') (s : State)
    (ds : List Word) : deltasAfter i s ds = ds := by
  cases h <;> rfl

theorem deltasAfter_of_serialWrite {f f' : Serial} {i : Instr} (h : SerialWrite f i f') (s : State)
    (ds : List Word) : deltasAfter i s ds = ds := by
  cases h <;> rfl

theorem sampleHistory_of_empty {s : State} (hp : s.press.pending = false) (hr : s.press.ring = ⟨0, 0, 0⟩)
    (hi : s.press.ringIdx = 0) (hf : s.press.filtered = 0) : SampleHistory s [] where
  pending_last := by simp [hp]
  ring_holds := by simp [hr, hi, ringOf]
  filtered_is_median := by rw [hf, hr]; rfl

theorem ring_of_settled {s : State} {ds : List Word} (h : SampleHistory s ds) (hp : s.press.pending = false) :
    (s.press.ring, s.press.ringIdx) = ringOf (ds.filter (plausible s.cfg)) := by
  have := h.ring_holds
  rwa [hp] at this

/-- A capture with nothing pending leaves its own delta the pending last one. -/
theorem sampleHistory_capture {s : State} {ds : List Word} (h : SampleHistory s ds) (hp : s.press.pending = false)
    (c : Half) (ovf : Bool) :
    SampleHistory (s.withPress (captureStep s.cfg c ovf s.press))
      (ds ++ [(captureStep s.cfg c ovf s.press).rawDelta]) where
  pending_last := fun _ => List.getLast?_concat
  ring_holds := by
    simpa [captureStep] using ring_of_settled h hp
  filtered_is_median := h.filtered_is_median

/-- A consumption settles the pending last delta: discarded, or pushed. -/
theorem sampleHistory_consume {s : State} {ds : List Word} (h : SampleHistory s ds) :
    SampleHistory (s.withPress (consumeStep s.cfg s.drive.tick s.press)) ds := by
  obtain ⟨-, heq⟩ | ⟨hp, hd, heq⟩ | ⟨hp, hd, heq⟩ := consumeStep_cases s.cfg s.drive.tick s.press
  · rw [heq]
    exact h
  all_goals
    obtain ⟨before, hds⟩ := List.getLast?_eq_some_iff.mp (h.pending_last hp)
    have hring := h.ring_holds
    rw [hp, hds] at hring
    simp only [if_true, List.dropLast_concat] at hring
    rw [heq, hds]
  · exact ⟨fun hpend => Bool.noConfusion hpend, by simpa [hd] using hring, h.filtered_is_median⟩
  · refine ⟨fun hpend => Bool.noConfusion hpend, ?_, rfl⟩
    simp [acceptSample, hd, ringOf_snoc, ← hring]

theorem sampleHistory_of_pressWrite {s : State} {ds : List Word} {i : Instr} {p : Pressure} (h : SampleHistory s ds)
    (hi : NoCaptureWhilePending i s) (hw : PressWrite s.cfg s.drive.tick s.press i p) :
    SampleHistory (s.withPress p) (deltasAfter i s ds) := by
  cases hw with
  | overflow => exact ⟨h.pending_last, h.ring_holds, h.filtered_is_median⟩
  | capture k ovf => exact sampleHistory_capture h (hi ⟨k, ovf, rfl⟩) k (flagOf ovf)
  | consume => exact sampleHistory_consume h
  | clear => exact sampleHistory_of_empty rfl rfl rfl rfl

theorem sampleHistory_of_effect {s t : State} {ds : List Word} {i : Instr} (h : SampleHistory s ds)
    (hi : NoCaptureWhilePending i s) (he : Effect s i t) : SampleHistory t (deltasAfter i s ds) := by
  cases he with
  | drive hw =>
    rw [deltasAfter_of_driveWrite hw]
    exact ⟨h.pending_last, h.ring_holds, h.filtered_is_median⟩
  | press hw => exact sampleHistory_of_pressWrite h hi hw
  | serial hw =>
    rw [deltasAfter_of_serialWrite hw]
    exact ⟨h.pending_last, h.ring_holds, h.filtered_is_median⟩
  | emit v hi' hs hk =>
    subst hi'
    exact ⟨h.pending_last, h.ring_holds, h.filtered_is_median⟩
  | trap hi' =>
    subst hi'
    exact ⟨h.pending_last, h.ring_holds, h.filtered_is_median⟩
  | reset hi' =>
    subst hi'
    exact sampleHistory_of_empty rfl rfl rfl rfl

/-- The median of a ring that holds the accepted deltas is the median of the last three of them (R170, R171). -/
theorem filtered_of_sampleHistory {s : State} {ds rest : List Word} {x y z : Word} (h : SampleHistory s ds)
    (hp : s.press.pending = false)
    (hxyz : (ds.filter (plausible s.cfg)).reverse ++ [0#32, 0#32, 0#32] = x :: y :: z :: rest) :
    s.press.filtered = median3 x y z := by
  obtain ⟨hx, hy, hz⟩ := ringOf_get _ hxyz
  rw [← ring_of_settled h hp] at hx hy hz
  rw [h.filtered_is_median, ringMedian_from _ s.press.ringIdx, hx, hy, hz]

/-- Settles O59: each operation's effect on the history, the empty history of reset, and the last three accepted. -/
theorem everyDeltaReachesTheFilter : Obligations.EveryDeltaReachesTheFilter :=
  ⟨fun _ _ _ _ h hi hexec => sampleHistory_of_effect h hi (effect_of_exec hexec),
    fun _ => sampleHistory_of_empty rfl rfl rfl rfl, fun _ _ _ _ _ _ => filtered_of_sampleHistory⟩

end Sys2Proof.Machine
end

section
/-! PROOFS. The CRC (43_serial section 2): the table form, and the residue of a sequence followed by its CRC. -/

namespace Sys2Proof.Machine

theorem setWidth_hiByte (c : Half) : (hiByte c).setWidth 16 = c >>> 8 := by
  apply BitVec.eq_of_toNat_eq
  simp only [hiByte, BitVec.toNat_setWidth, BitVec.extractLsb'_toNat, BitVec.toNat_ushiftRight,
    Nat.shiftRight_eq_div_pow]
  omega

theorem setWidth_eq_loByte (c : Half) : c.setWidth 8 = loByte c := rfl

/-- Settles O33: the high byte moves down, the low byte and the data byte select the entry. -/
theorem crcTableFormAgrees : Obligations.CrcTableFormAgrees := fun c b => by
  rw [crcUpdate_eq, setWidth_hiByte, BitVec.setWidth_xor, setWidth_eq_loByte,
    BitVec.setWidth_setWidth_of_le _ (by decide), BitVec.setWidth_eq]

/-- The low byte of an accumulator cancels itself. -/
theorem crcUpdate_loByte (c : Half) : crcUpdate c (loByte c) = (hiByte c).setWidth 16 := by
  rw [crcUpdate_eq, BitVec.xor_self]
  exact BitVec.xor_zero

/-- A byte cancels an accumulator that is that byte. -/
theorem crcUpdate_setWidth (b : Byte) : crcUpdate (b.setWidth 16) b = 0#16 := by
  have hhi : hiByte (b.setWidth 16) = 0#8 := by revert b; decide
  have hlo : loByte (b.setWidth 16) = b := by revert b; decide
  rw [crcUpdate_eq, hhi, hlo, BitVec.xor_self]
  rfl

/-- R183: the CRC of a sequence followed by its CRC, low byte first. -/
theorem crc16_residue (bs : List Byte) : crc16 (bs ++ [loByte (crc16 bs), hiByte (crc16 bs)]) = 0#16 := by
  have hsplit : bs ++ [loByte (crc16 bs), hiByte (crc16 bs)] =
      (bs ++ [loByte (crc16 bs)]) ++ [hiByte (crc16 bs)] := by simp
  rw [hsplit, crcUpdate_append, crcUpdate_append, crcUpdate_loByte, crcUpdate_setWidth]

/-- Settles O34: the residue, and the check values evaluated. -/
theorem crcResidueIsZero : Obligations.CrcResidueIsZero := by
  refine ⟨crc16_residue, rfl, ?_, ?_, ?_⟩ <;> decide +kernel

end Sys2Proof.Machine
end

section
/-! PROOFS. The serial receiver (43_serial sections 3 and 4): bytes, frames and their validation. -/

namespace Sys2Proof.Machine

/-! One byte, by frame state (R186, R188). -/

theorem rxStep_of_silence {f : Serial} (hs : f.fState = .idle) (hl : f.lineIdle = true) (b : Byte) :
    rxStep b f = frameByteStep b (startFrame { f with lineIdle := false }) := by
  simp only [rxStep, hs, hl, if_true]

theorem rxStep_of_noise {f : Serial} (hs : f.fState = .idle) (hl : f.lineIdle = false) (b : Byte) :
    rxStep b f = { f with lineIdle := false } := by
  simp [rxStep, hs, hl]

theorem rxStep_of_receiving {f : Serial} (hs : f.fState = .receiving) (b : Byte) :
    rxStep b f = frameByteStep b { f with lineIdle := false } := by
  simp only [rxStep, hs]

theorem exec_rxByte_eq {s : State} {b : Byte} {f : Serial} (h : rxStep b s.ser = f) :
    exec (.rxByte b) s = .next { s with ser := f } :=
  congrArg (fun f => Host.Outcome.next (s.withSer f)) h

/-- Settles O36: the first byte after a silence is byte 0 of a frame; elsewhere only `lineIdle` is written. -/
theorem byteStartsFrameOrIsDiscarded : Obligations.ByteStartsFrameOrIsDiscarded := by
  refine ⟨fun b => congrArg Input.word (append_eq_shiftLeft_or ..), fun s b hs hl => exec_rxByte_eq ?_,
    fun s b h => exec_rxByte_eq ?_⟩
  · rw [rxStep_of_silence hs hl]
    simp [frameByteStep, startFrame, storeByte, crcInit]
  · obtain ⟨hs, hl⟩ | h := h
    · exact rxStep_of_noise hs hl b
    · exact rxStep_of_busy h b

/-- Settles O37: byte by byte, the field it goes to. -/
theorem frameBytesFillTheirFields : Obligations.FrameBytesFillTheirFields := by
  intro s b hs
  refine ⟨fun hn => ?_, fun hn => ?_, fun hn => ?_, fun hn => ?_, fun hn => ?_, fun hn => ?_, fun hn => ?_,
    fun hn => ?_⟩ <;>
  · apply exec_rxByte_eq
    rw [rxStep_of_receiving hs]
    simp [frameByteStep, storeByte, hn, hs, setHi, setLo, hiByte, loByte, fcRead]

/-! Whole frames (R100, R108). -/

theorem exec_readHolding (a : Byte) (r n : Half) (l h : Byte) (s : State) :
    exec (.readHolding a r n l h) s =
      .next (s.withSer (receiveFrame [a, fcRead, hiByte r, loByte r, hiByte n, loByte n, l, h] s.ser)) := rfl

/-- Settles O42: the trace receives the same eight bytes. -/
theorem readHoldingIsItsTrace : Obligations.ReadHoldingIsItsTrace := by
  refine ⟨fun s a r n l h => runOps_rxFrame _ s, fun s a r n l h hcrc => ?_⟩
  rw [readHoldingTrace, requestFrame_eq hcrc, runOps_rxFrame, exec_readHolding]

/-- Settles O43: the fields a listening receiver holds after the eight bytes, and the one flag a busy one clears. -/
theorem readHoldingIsReceived : Obligations.ReadHoldingIsReceived := by
  refine ⟨fun _ _ _ _ _ => rfl, fun s a r n l h hs => ?_, fun s a r n l h hs => ?_⟩
  · rw [exec_readHolding, receiveFrame_of_listening hs, hi_append_lo, hi_append_lo, bne_self_eq_false, Bool.or_false]
    rfl
  · rw [exec_readHolding, receiveFrame_of_busy hs]
    rfl

/-- R191's condition on the fields a frame leaves. -/
theorem frameAccepted_receiveFrame_iff {f : Serial} (b0 b1 b2 b3 b4 b5 b6 b7 : Byte)
    (hf : f.fState = .idle ∨ f.fState = .receiving) :
    frameAccepted (receiveFrame [b0, b1, b2, b3, b4, b5, b6, b7] f) = true ↔
      b0 = f.stationAddr ∧ b1 = 0x03#8 ∧ b4.toNat * 256 + b5.toNat ≤ 125 ∧
        b7 ++ b6 = crc16 [b0, b1, b2, b3, b4, b5] := by
  rw [frameAccepted_iff, receiveFrame_of_listening hf, toNat_half]
  simp only [Bool.or_eq_false_iff, bne_eq_false_iff_eq, fcRead]
  tauto

theorem receiveFrame_fState {f : Serial} (hf : f.fState = .idle ∨ f.fState = .receiving)
    (b0 b1 b2 b3 b4 b5 b6 b7 : Byte) :
    (receiveFrame [b0, b1, b2, b3, b4, b5, b6, b7] f).fState = .validating := by
  rw [receiveFrame_of_listening hf]

/-- A frame and a poll: the fields received are validated. -/
theorem runOps_frame_poll {s : State} (hs : s.ser.fState = .idle ∨ s.ser.fState = .receiving)
    (b0 b1 b2 b3 b4 b5 b6 b7 : Byte) (t : Half) :
    runOps (rxFrame [b0, b1, b2, b3, b4, b5, b6, b7] ++ [.serPoll t]) s =
      .next (s.withSer (validateStep (receiveFrame [b0, b1, b2, b3, b4, b5, b6, b7] s.ser))) := by
  have hstate := receiveFrame_fState hs b0 b1 b2 b3 b4 b5 b6 b7
  rw [runOps_append (runOps_rxFrame _ s), runOps, exec_serPoll_validating t hstate]
  rfl

/-- Settles O44: the poll after the frame decides by R191's condition on the fields received. -/
theorem frameAnsweredIffValid : Obligations.FrameAnsweredIffValid := by
  intro s b0 b1 b2 b3 b4 b5 b6 b7 t hs
  rw [runOps_frame_poll hs, ← frameAccepted_receiveFrame_iff b0 b1 b2 b3 b4 b5 b6 b7 hs]
  refine ⟨_, rfl, rfl, ?_⟩
  rw [State.withSer_ser]
  by_cases h : frameAccepted (receiveFrame [b0, b1, b2, b3, b4, b5, b6, b7] s.ser) = true
  · rw [validateStep_of_accepted h]
    simp [h]
  · rw [validateStep_of_rejected h]
    simp [h]

/-! A complete response of the invariant (R199). -/

/-- The bytes of a complete response are its payload and the CRC of it, low byte first. -/
theorem sentBytes_of_complete {s : State} (h : SerialInv s.ser s.tx) (hs : s.ser.fState = .responding)
    (hk : s.ser.cursor.toNat = 3 + 2 * s.ser.regCount.toNat + 2) :
    ∃ p : List Byte, sentBytes s.ser s.tx = p ++ [loByte (crc16 p), hiByte (crc16 p)] := by
  have htrailer := h.sent_trailer hs
  rw [h.response_crc hs, hk, Nat.add_sub_cancel_left] at htrailer
  exact ⟨_, (List.take_append_drop _ _).symm.trans (congrArg _ htrailer)⟩

/-- Settles O46: the length is the cursor's, the CRC the residue, and the header that of R194. -/
theorem completeResponseValidates : Obligations.CompleteResponseValidates := by
  intro s h hs hk
  refine ⟨?_, ?_, ?_⟩
  · have := h.sent_recorded hs
    rw [List.length_take]
    omega
  · obtain ⟨p, hp⟩ := sentBytes_of_complete h hs hk
    exact (congrArg crc16 hp).trans (crc16_residue p)
  · have hall : ∀ l : List Byte, l.length = 3 → l.take s.ser.cursor.toNat = l := fun l hl =>
      List.take_of_length_le (by omega)
    refine (h.sent_header hs).trans ((hall _ rfl).trans ?_)
    rw [h.answered_function hs]
    rfl

end Sys2Proof.Machine
end

section
/-! PROOFS. The round trip (43_serial section 4): a request answered byte by byte. -/

namespace Sys2Proof.Machine

/-! The bytes of a response frame, by position (R101). -/

/-- Register values, high byte first. -/
theorem getElem?_registerBytes (vals : List Half) (j : Nat) :
    (vals.flatMap fun v => [hiByte v, loByte v])[2 * j]? = vals[j]?.map hiByte ∧
      (vals.flatMap fun v => [hiByte v, loByte v])[2 * j + 1]? = vals[j]?.map loByte := by
  induction vals generalizing j with
  | nil => exact ⟨rfl, rfl⟩
  | cons v vals ih =>
    cases j with
    | zero => exact ⟨rfl, rfl⟩
    | succ j => exact ih j

theorem length_responsePayload (a f : Byte) (vals : List Half) :
    (responsePayload a f vals).length = 3 + 2 * vals.length := by
  have : (vals.flatMap fun v => [hiByte v, loByte v]).length = 2 * vals.length := by
    rw [List.length_flatMap]
    simp [Nat.mul_comm]
  simp only [responsePayload, List.length_append, List.length_cons, List.length_nil, this]

theorem length_responseFrame (a f : Byte) (vals : List Half) :
    (responseFrame a f vals).length = 5 + 2 * vals.length := by
  simp only [responseFrame, List.length_append, length_responsePayload, List.length_cons, List.length_nil]
  omega

theorem responseFrame_residue (a f : Byte) (vals : List Half) : crc16 (responseFrame a f vals) = 0#16 :=
  crc16_residue _

theorem getElem?_responsePayload (a f : Byte) (vals : List Half) (j : Nat) :
    (responsePayload a f vals)[3 + 2 * j]? = vals[j]?.map hiByte ∧
      (responsePayload a f vals)[3 + 2 * j + 1]? = vals[j]?.map loByte := by
  have h := getElem?_registerBytes vals j
  have hskip : ∀ k, (responsePayload a f vals)[3 + k]? = (vals.flatMap fun v => [hiByte v, loByte v])[k]? := by
    intro k
    rw [Nat.add_comm]
    rfl
  rw [Nat.add_assoc, hskip, hskip]
  exact h

/-- The responder holds what the byte `k` of the response to `vals` is made of: the register whose byte is due, and
the CRC of the payload when that is due. -/
structure Holds (f : Serial) (vals : List Half) (k : Nat) : Prop where
  count : f.regCount.toNat = vals.length
  latch : ∀ j, (k = 3 + 2 * j ∨ k = 3 + 2 * j + 1) → j < vals.length → vals[j]? = some f.regLatch
  crc : 3 + 2 * vals.length ≤ k → f.runningCrc = crc16 (responsePayload f.frmAddr f.frmFunc vals)

theorem getElem?_responsePayload_of_holds {f : Serial} {vals : List Half} {k : Nat} (h : Holds f vals k)
    (hk : k < 3 + 2 * vals.length) :
    (responsePayload f.frmAddr f.frmFunc vals)[k]? = some (responseByte f k) := by
  have hcases : k = 0 ∨ k = 1 ∨ k = 2 ∨ ∃ j, j < vals.length ∧ (k = 3 + 2 * j ∨ k = 3 + 2 * j + 1) := by
    by_cases hk3 : k < 3
    · omega
    · exact .inr (.inr (.inr ⟨(k - 3) / 2, by omega, by omega⟩))
  unfold responseByte
  rw [h.count]
  obtain rfl | rfl | rfl | ⟨j, hj, hkj⟩ := hcases
  · rfl
  · rfl
  · rfl
  · have hval := h.latch j hkj hj
    obtain ⟨hhi, hlo⟩ := getElem?_responsePayload f.frmAddr f.frmFunc vals j
    rw [hval] at hhi hlo
    obtain rfl | rfl := hkj
    · rw [hhi]
      simp (disch := omega) only [if_neg, if_pos, Option.map_some]
    · rw [hlo]
      simp (disch := omega) only [if_neg, if_pos, Option.map_some]

/-- The byte sent next is the next byte of the frame (R101). -/
theorem getElem?_responseFrame_of_holds {f : Serial} {vals : List Half} {k : Nat} (h : Holds f vals k)
    (hk : k < responseLength f) :
    (responseFrame f.frmAddr f.frmFunc vals)[k]? = some (responseByte f k) := by
  have hlen := length_responsePayload f.frmAddr f.frmFunc vals
  rw [responseLength, h.count] at hk
  by_cases hpay : k < 3 + 2 * vals.length
  · rw [responseFrame, List.getElem?_append_left (by omega), getElem?_responsePayload_of_holds h hpay]
  · rw [responseFrame, List.getElem?_append_right (by omega), hlen, ← h.crc (by omega)]
    unfold responseByte
    rw [h.count]
    obtain rfl | rfl : k = 3 + 2 * vals.length ∨ k = 3 + 2 * vals.length + 1 := by omega
    · rw [Nat.sub_self]
      simp (disch := omega) only [if_neg]
      rfl
    · rw [Nat.add_sub_cancel_left]
      simp (disch := omega) only [if_neg]
      rfl

/-! The polls of a response. -/

/-- A response to `count` registers from `start`, whose values are `vals`, before it `before` on the line. -/
structure Answer where
  addr : Byte
  start : Half
  vals : List Half
  before : List Byte

/-- The responder after `k` polls: `k` bytes of the answer's frame are sent. -/
structure Sent (A : Answer) (k : Nat) (u : State) : Prop where
  state : u.ser.fState = .responding
  addr : u.ser.frmAddr = A.addr
  func : u.ser.frmFunc = fcRead
  start : u.ser.startReg = A.start
  count : u.ser.regCount.toNat = A.vals.length
  cursor : u.ser.cursor.toNat = k
  crc : u.ser.runningCrc = crc16 ((responsePayload A.addr fcRead A.vals).take k)
  latch : ∀ j, k = 3 + 2 * j + 1 → j < A.vals.length → A.vals[j]? = some u.ser.regLatch
  tx : u.tx = ((responseFrame A.addr fcRead A.vals).take k).reverse ++ A.before

theorem take_succ_of_getElem? {α : Type} {l : List α} {k : Nat} {x : α} (h : l[k]? = some x) :
    l.take (k + 1) = l.take k ++ [x] := by
  rw [List.take_add_one, h]
  rfl

/-- The register latched by a poll is the one whose byte is due. -/
theorem holds_latchStep {A : Answer} {k : Nat} {u : State} (h : Sent A k u) (v : Half)
    (hv : ∀ j, k = 3 + 2 * j → j < A.vals.length →
      A.vals[j]? = some (telemetry u.cfg (A.start + BitVec.ofNat 16 j) v)) :
    Holds (latchStep u.cfg v u.ser) A.vals k := by
  have hhigh := isHighByte_iff u.ser k
  rw [h.count] at hhigh
  rw [latchStep_eq_update, h.cursor]
  refine ⟨h.count, fun j hj hlt => ?_, fun hpay => ?_⟩
  · obtain rfl | rfl := hj
    · have hdue : isHighByte u.ser (3 + 2 * j) = true := hhigh.mpr (by omega)
      have hindex : (3 + 2 * j - 3) / 2 = j := by omega
      rw [hv j rfl hlt, hdue, if_pos rfl, hindex, registerAddress, h.start]
    · have hdue : ¬ isHighByte u.ser (3 + 2 * j + 1) = true := fun hb => by
        have := hhigh.mp hb
        omega
      rw [if_neg hdue]
      exact h.latch j rfl hlt
  · have hall := List.take_of_length_le ((length_responsePayload A.addr fcRead A.vals).trans_le hpay)
    show u.ser.runningCrc = crc16 (responsePayload u.ser.frmAddr u.ser.frmFunc A.vals)
    rw [h.crc, hall, h.addr, h.func]

/-- One poll sends one byte; `v` is the draw for the register whose high byte is due. -/
theorem sent_serPoll {A : Answer} {k : Nat} {u : State} (h : Sent A k u) (hmax : A.vals.length ≤ maxRegs)
    (hk : k < 5 + 2 * A.vals.length) (v : Half)
    (hv : ∀ j, k = 3 + 2 * j → j < A.vals.length →
      A.vals[j]? = some (telemetry u.cfg (A.start + BitVec.ofNat 16 j) v)) :
    ∃ t, exec (.serPoll v) u = .next t ∧ t.cfg = u.cfg ∧ Sent A (k + 1) t := by
  have hlen : u.ser.cursor.toNat < responseLength u.ser := by
    rw [responseLength, h.count, h.cursor]
    omega
  obtain ⟨l, hl⟩ : ∃ l, latchStep u.cfg v u.ser = { u.ser with regLatch := l } :=
    ⟨_, latchStep_eq_update ..⟩
  have hholds := holds_latchStep h v hv
  rw [hl] at hholds
  obtain ⟨out, hout⟩ : ∃ out, responseByte { u.ser with regLatch := l } k = out := ⟨_, rfl⟩
  have hnext : emitNext v u = _ := emitNext_eq_update hl (h.cursor ▸ hout)
  rw [h.cursor] at hnext
  refine ⟨_, (exec_serPoll_emit v h.state hlen).trans (congrArg _ hnext), rfl, ?_⟩
  refine ⟨h.state, h.addr, h.func, h.start, h.count, ?cursor, ?crc, fun j hj => ?latch, ?tx⟩
  case cursor =>
    show (BitVec.ofNat 8 (k + 1)).toNat = k + 1
    rw [maxRegs] at hmax
    rw [BitVec.toNat_ofNat]
    omega
  case crc =>
    show (if k < 3 + 2 * u.ser.regCount.toNat then crcUpdate u.ser.runningCrc out else u.ser.runningCrc) = _
    rw [h.count, h.crc]
    split
    · have hbyte := getElem?_responsePayload_of_holds hholds ‹_›
      rw [hout, h.addr, h.func] at hbyte
      rw [take_succ_of_getElem? hbyte, crcUpdate_append]
    · have hall := length_responsePayload A.addr fcRead A.vals
      rw [List.take_of_length_le (by omega), List.take_of_length_le (by omega)]
  case latch => exact hholds.latch j (.inl (by omega))
  case tx =>
    have hbyte := getElem?_responseFrame_of_holds hholds (h.cursor ▸ hlen)
    rw [hout, h.addr, h.func] at hbyte
    rw [take_succ_of_getElem? hbyte, List.reverse_append, h.tx]
    rfl

/-- The draws of the polls `vs`, the first of them poll `k` of the response, are the answer's values: register `j` is
drawn at the poll of its high byte (R195). -/
def Drawn (A : Answer) (c : Config) (k : Nat) (vs : List Half) : Prop :=
  ∀ j, k ≤ 3 + 2 * j → j < A.vals.length →
    A.vals[j]? = some (telemetry c (A.start + BitVec.ofNat 16 j) (vs.getD (3 + 2 * j - k) 0))

theorem drawn_tail {A : Answer} {c : Config} {k : Nat} {v : Half} {vs : List Half} (h : Drawn A c k (v :: vs)) :
    Drawn A c (k + 1) vs := by
  intro j hj hlt
  have hindex : 3 + 2 * j - k = (3 + 2 * j - (k + 1)) + 1 := by omega
  have := h j (by omega) hlt
  rwa [hindex, List.getD_cons_succ] at this

theorem sent_polls {A : Answer} (hmax : A.vals.length ≤ maxRegs) {k : Nat} {u : State} {vs : List Half}
    (h : Sent A k u) (hlen : k + vs.length ≤ 5 + 2 * A.vals.length) (hv : Drawn A u.cfg k vs) :
    ∃ t, runOps (vs.map .serPoll) u = .next t ∧ Sent A (k + vs.length) t := by
  induction vs generalizing k u with
  | nil => exact ⟨u, rfl, h⟩
  | cons v vs ih =>
    rw [List.length_cons] at hlen
    obtain ⟨u', hrun, hcfg, hsent⟩ := sent_serPoll h hmax (by omega) v fun j hj hlt => by
      have := hv j hj.le hlt
      rwa [← hj, Nat.sub_self] at this
    obtain ⟨t, hrun', hsent'⟩ := ih hsent (by omega) (hcfg ▸ drawn_tail hv)
    refine ⟨t, ?_, ?_⟩
    · simp only [List.map_cons, runOps, hrun, hrun']
    · rw [List.length_cons, Nat.add_comm vs.length, ← Nat.add_assoc]
      exact hsent'

theorem toNat_hiByte_loByte (v : Half) : (hiByte v).toNat * 256 + (loByte v).toNat = v.toNat :=
  (toNat_half ..).symm.trans (congrArg BitVec.toNat (hi_append_lo v))

/-- A correct request and the poll that validates it: nothing is sent yet (R191, R193). -/
theorem sent_of_request {s : State} {r n : Half} {vals : List Half}
    (hs : s.ser.fState = .idle ∨ s.ser.fState = .receiving) (hn : n.toNat ≤ 125) (hlen : n.toNat = vals.length)
    (v : Half) :
    ∃ u, runOps (readHoldingTrace s.ser.stationAddr r n ++ [.serPoll v]) s = .next u ∧ u.cfg = s.cfg ∧
      Sent ⟨s.ser.stationAddr, r, vals, s.tx⟩ 0 u := by
  have haccepted := (frameAccepted_receiveFrame_iff s.ser.stationAddr fcRead (hiByte r) (loByte r) (hiByte n)
    (loByte n) _ _ hs).mpr ⟨rfl, rfl, (toNat_hiByte_loByte n).trans_le hn, hi_append_lo _⟩
  rw [readHoldingTrace, requestFrame_eq (hi_append_lo _), runOps_frame_poll hs, validateStep_of_accepted haccepted,
    receiveFrame_of_listening hs]
  refine ⟨_, rfl, rfl, rfl, rfl, rfl, hi_append_lo r, ?_, rfl, rfl, fun j hj => by omega, rfl⟩
  exact (congrArg BitVec.toNat (hi_append_lo n)).trans hlen

/-- Settles O45: the request is validated by the first poll, and each further one sends the next byte of the frame. -/
theorem requestRoundTrip : Obligations.RequestRoundTrip := by
  intro s a r n ts vals hs ha hn hts hvals
  subst ha
  obtain ⟨v, vs, rfl⟩ := List.exists_cons_of_length_pos (l := ts) (by omega)
  have hcount : n.toNat = vals.length := by rw [hvals, List.length_map, List.length_range]
  rw [List.length_cons] at hts
  obtain ⟨u, hrun, hcfg, hsent⟩ := sent_of_request (r := r) hs hn hcount v
  have hdrawn : Drawn ⟨s.ser.stationAddr, r, vals, s.tx⟩ u.cfg 0 vs := by
    intro j _ (hj : j < vals.length)
    have hindex : 4 + 2 * j = 3 + 2 * j + 1 := by omega
    show vals[j]? = some (telemetry u.cfg (r + BitVec.ofNat 16 j) _)
    rw [hvals, List.getElem?_map, List.getElem?_range (by omega), hcfg, telemetry_eq_ite]
    simp only [Option.map_some, hindex, List.getD_cons_succ, Nat.sub_zero]
    rfl
  have hpolls : 0 + vs.length ≤ 5 + 2 * vals.length := by omega
  obtain ⟨t, hrun', hdone⟩ := sent_polls (by rwa [← hcount]) hsent hpolls hdrawn
  have hframe : ∀ l : List Byte, l.length = 5 + 2 * vals.length → l.take (0 + vs.length) = l := fun l hl =>
    List.take_of_length_le (by omega)
  have hlen := length_responseFrame s.ser.stationAddr fcRead vals
  refine ⟨t, ?run, ?tx, hlen.trans (by rw [hcount]), responseFrame_residue .., ?guard⟩
  case run =>
    rw [List.map_cons, List.append_cons, runOps_append hrun, hrun']
  case tx => rw [hdone.tx, hframe _ hlen]; rfl
  case guard =>
    have hcursor := hdone.cursor
    have hregs : t.ser.regCount.toNat = vals.length := hdone.count
    obtain ⟨-, hguard, -⟩ := guardEndsResponse
    exact hguard t hdone.state (by omega)

end Sys2Proof.Machine
end

section
/-! PROOFS. The environment's debounced faults (60_exceptions R240 to R243). -/

namespace Sys2Proof.Machine

/-! One evaluation of a bit (R240). -/

theorem eval_of_condition (e : EnvConfig) (w tick : Nat) (d : Debounced) :
    d.eval e w tick true = { isSet := true, setTime := tick } := rfl

/-- Under a false condition the stamp stays, and the bit until its window is exceeded. -/
theorem eval_of_not_condition (e : EnvConfig) (w tick : Nat) (d : Debounced) :
    d.eval e w tick false =
      { d with isSet := d.isSet && decide (elapsed w tick d.setTime ≤ e.quiet) } := by
  obtain ⟨b, t⟩ := d
  by_cases h : e.quiet < elapsed w tick t
  · cases b <;> simp [Debounced.eval, h]
  · cases b <;> simp [Debounced.eval, h, Nat.not_lt.mp h]

theorem elapsed_of_ticks {w k : Nat} (T : Nat) (hk : k < 2 ^ w) :
    elapsed w ((T + k) % 2 ^ w) (T % 2 ^ w) = k := by
  have h := elapsed_cast w ((T + k) % 2 ^ w) (T % 2 ^ w)
  have hmod : ((T + k : Nat) : Int) - (T : Nat) = (k : Nat) := by push_cast; ring
  push_cast at h hmod ⊢
  rw [← Int.sub_emod, hmod, Int.emod_eq_of_lt (by positivity) (by exact_mod_cast hk)] at h
  exact_mod_cast h

/-- A bit set at `T` after `k` evaluations with a false condition. -/
theorem foldl_eval_of_set (e : EnvConfig) {w k : Nat} (T : Nat) (hk : k < 2 ^ w) :
    ((List.range k).map (fun j => (T + (j + 1)) % 2 ^ w)).foldl
      (fun (b : Debounced) tick => b.eval e w tick false) { isSet := true, setTime := T % 2 ^ w } =
        { isSet := decide (k ≤ e.quiet), setTime := T % 2 ^ w } := by
  induction k with
  | zero => rfl
  | succ k ih =>
    rw [List.range_succ, List.map_append, List.foldl_append, ih (by omega)]
    simp only [List.map_cons, List.map_nil, List.foldl_cons, List.foldl_nil, eval_of_not_condition,
      elapsed_of_ticks T hk]
    rw [← Bool.decide_and]
    congr 2
    simp
    omega

/-! The bits of the mask and their stamps after a pass. -/

theorem ne_shortCircuit_of_condition {e : EnvConfig} {r : EnvReadings} {s : State} {k : FaultKind}
    (h : condition e r s k = true) : k ≠ .shortCircuit := by
  rintro rfl
  cases h

theorem faultSet_envPass {s : State} (hc : configValid s.cfg = true) (e : EnvConfig) (r : EnvReadings) (v : EnvState)
    {k : FaultKind} (hk : k ≠ .shortCircuit) :
    faultSet s.cfg.faultBit (envPass e r s v).mask k = (evalFault e r s v.setTimes k).isSet := by
  obtain ⟨-, -, -, hbits⟩ := (configValid_iff _).mp hc
  exact (faultSet_evalMask hbits e r v.setTimes k).trans (if_neg hk)

theorem shortCircuit_envPass {s : State} (hc : configValid s.cfg = true) (e : EnvConfig) (r : EnvReadings)
    (v : EnvState) :
    faultSet s.cfg.faultBit (envPass e r s v).mask .shortCircuit = faultSet s.cfg.faultBit s.fault .shortCircuit := by
  obtain ⟨-, -, -, hbits⟩ := (configValid_iff _).mp hc
  exact (faultSet_evalMask hbits e r v.setTimes .shortCircuit).trans (if_pos rfl)

theorem setTimes_envPass (e : EnvConfig) (r : EnvReadings) (s : State) (v : EnvState) {k : FaultKind}
    (hk : k ≠ .shortCircuit) :
    (envPass e r s v).env.setTimes.get k = (evalFault e r s v.setTimes k).setTime :=
  get_evalSetTimes e r s v.setTimes hk

/-- Settles O55: the window by the number of evaluations, and one evaluation of each bit of the mask. -/
theorem debounceWindow : Obligations.DebounceWindow := by
  refine ⟨fun e w T k d hk => ?window,
    fun e r s v k hc => ⟨?short, fun hcond => ?set, fun hk hcond => ?clear⟩⟩
  case window => rw [eval_of_condition, foldl_eval_of_set e T hk]
  case short =>
    rintro rfl
    exact shortCircuit_envPass hc e r v
  case set =>
    have hk := ne_shortCircuit_of_condition hcond
    rw [faultSet_envPass hc e r v hk, setTimes_envPass e r s v hk, evalFault, hcond]
    exact ⟨rfl, rfl⟩
  case clear =>
    rw [faultSet_envPass hc e r v hk, setTimes_envPass e r s v hk, evalFault, hcond, eval_of_not_condition,
      ← elapsed_cast]
    simp

end Sys2Proof.Machine
end

section
/-! PROOFS. The environment's regulator and gating (45_environment). -/

namespace Sys2Proof.Machine

/-! What a pass issues. -/

/-- The request of a pass. -/
def passRequested (e : EnvConfig) (r : EnvReadings) (s : State) (v : EnvState) : Option Half :=
  passRequest e r s (visibleFault e (envPass e r s v).mask) (regulate e r s v.regulator)

theorem envPass_ops (e : EnvConfig) (r : EnvReadings) (s : State) (v : EnvState) :
    (envPass e r s v).ops =
      .psConsume :: ((passRequested e r s v).map Instr.drvSetreq).toList ++
        ((passMove e r s v).map Transition.op).toList := rfl

theorem drvSetreq_mem_iff {e : EnvConfig} {r : EnvReadings} {s : State} {v : EnvState} {x : Half} :
    .drvSetreq x ∈ (envPass e r s v).ops ↔ passRequested e r s v = some x := drvSetreq_mem_envPass

theorem passReqFreq_eq (e : EnvConfig) (r : EnvReadings) (s : State) (v : EnvState) :
    passReqFreq e r s v = ((passRequested e r s v).map fun x => fit s.cfg.freqW x.toNat).getD s.drive.reqFreq := rfl

/-- The pressure the regulator of this pass sees (R223). -/
def passPressure (e : EnvConfig) (s : State) : Rat :=
  actualPressure e (consumeStep s.cfg s.drive.tick s.press)

theorem passRequested_of_fault {e : EnvConfig} {r : EnvReadings} {s : State} {v : EnvState}
    (h : visibleFault e (envPass e r s v).mask ≠ 0) : passRequested e r s v = some 0 := if_pos h

theorem passRequested_of_invoked {e : EnvConfig} {r : EnvReadings} {s : State} {v : EnvState}
    (h : visibleFault e (envPass e r s v).mask = 0) (hi : invoked r s = true) :
    passRequested e r s v = some (requestOf e (passPressure e s) (regulate e r s v.regulator)) := by
  rw [passRequested, passRequest, if_neg (not_not.mpr h), if_pos hi]
  rfl

theorem passRequested_of_not_invoked {e : EnvConfig} {r : EnvReadings} {s : State} {v : EnvState}
    (h : visibleFault e (envPass e r s v).mask = 0) (hi : ¬ invoked r s = true) : passRequested e r s v = none := by
  rw [passRequested, passRequest, if_neg (not_not.mpr h), if_neg hi]

theorem regulate_of_invoked {e : EnvConfig} {r : EnvReadings} {s : State} (g : Regulator) (hi : invoked r s = true) :
    regulate e r s g = g.invoke (passPressure e s) r.flowSensed s.drive.tick := if_pos hi

theorem regulate_of_not_invoked {e : EnvConfig} {r : EnvReadings} {s : State} (g : Regulator)
    (hi : ¬ invoked r s = true) : regulate e r s g = g := if_neg hi

/-- Settles O56: a request is 0 under a fault, and else the clamped sum or 0. -/
theorem requestWithinLimits : Obligations.RequestWithinLimits := by
  refine ⟨fun e r s v x hmin h16 hx => ?limits, quarter_bounds, fun e p g n hg hsum hn hn' => ?exact⟩
  case limits =>
    rw [drvSetreq_mem_iff] at hx
    by_cases hmask : visibleFault e (envPass e r s v).mask = 0
    · refine ⟨?_, fun h => absurd hmask h⟩
      by_cases hi : invoked r s = true
      · rw [passRequested_of_invoked hmask hi, Option.some.injEq] at hx
        have hreq := toNat_requestOf hmin h16 (passPressure e s) (regulate e r s v.regulator)
        rw [hx] at hreq
        split at hreq
        · rw [hreq]
          exact .inr (clampedRequest_range hmin ..)
        · exact .inl (BitVec.eq_of_toNat_eq hreq)
      · rw [passRequested_of_not_invoked hmask hi] at hx
        cases hx
    · rw [passRequested_of_fault hmask, Option.some.injEq] at hx
      exact ⟨.inl hx.symm, fun _ => hx.symm⟩
  case exact =>
    have hclamp : clampedRequest e g.pressureOff p = n := by
      rw [clampedRequest, quarter_exact hsum]
      omega
    rw [requestOf, if_pos hg, hclamp]

/-! The gating (R225, R241). -/

theorem gate_of_fault {e : EnvConfig} {m : Byte} (hm : m ≠ 0#8) (d : Drive) (request : Nat) :
    gate e m d request = if d.running then some .stop else none := by
  cases hrun : d.running
  · simp [gate, hrun, hm]
  · simp [gate, hrun, hm]

/-- Settles O57: under a fault the request is 0 and the gate only stops; a latched bit and a true condition are bits
of the mask. -/
theorem faultForcesImmediateStop : Obligations.FaultForcesImmediateStop := by
  refine ⟨fun e r s v hign hmask => ?ops, fun e r s v hc hfault => ?mask⟩
  case ops =>
    have hvis : visibleFault e (envPass e r s v).mask ≠ 0 := by
      rw [visibleFault, hign]
      exact hmask
    rw [envPass_ops, passRequested_of_fault hvis, passMove, gate_of_fault hvis]
    cases s.drive.running <;> rfl
  case mask =>
    obtain hset | ⟨k, hk⟩ := hfault
    · exact ne_zero_of_faultSet ((shortCircuit_envPass hc e r v).trans hset)
    · have hset := faultSet_envPass hc e r v (ne_shortCircuit_of_condition hk)
      rw [evalFault, hk] at hset
      exact ne_zero_of_faultSet hset

/-- At high pressure a regulator at rest stays as it is (R222). -/
theorem invoke_of_high_pressure {p : Rat} {g : Regulator} (hg : g.regulating = false) (hon : g.pressureOn ≤ p)
    (tick : Nat) : g.invoke p false tick = g := by
  have hrun : shouldRun p false tick g = false := by
    simp [shouldRun, hg, hon]
  rw [Regulator.invoke, hrun]
  exact congrArg (fun b => { g with regulating := b }) hg.symm

theorem requestOf_of_rest {g : Regulator} (hg : g.regulating = false) (e : EnvConfig) (p : Rat) :
    requestOf e p g = 0 := by
  rw [requestOf, hg]
  rfl

theorem gate_of_no_request (e : EnvConfig) (m : Byte) {d : Drive} (hd : d.running = false) : gate e m d 0 = none := by
  simp [gate, hd]

/-- Settles O58: the regulator stays at rest, so that whatever is requested is 0, and 0 starts nothing. -/
theorem highPressureNeverStarts : Obligations.HighPressureNeverStarts := by
  intro e r s v hg hflow hon hoff hrun hreq
  have hreg : regulate e r s v.regulator = v.regulator := by
    by_cases hi : invoked r s = true
    · have hhigh : v.regulator.pressureOn ≤ passPressure e s := hon.trans hoff
      rw [regulate_of_invoked _ hi, hflow, invoke_of_high_pressure hg hhigh]
    · exact regulate_of_not_invoked _ hi
  have hrequest : passRequested e r s v = none ∨ passRequested e r s v = some 0 := by
    by_cases hmask : visibleFault e (envPass e r s v).mask = 0
    · by_cases hi : invoked r s = true
      · rw [passRequested_of_invoked hmask hi, hreg, requestOf_of_rest hg]
        exact .inr rfl
      · exact .inl (passRequested_of_not_invoked hmask hi)
    · exact .inr (passRequested_of_fault hmask)
  have hfreq : passReqFreq e r s v = 0 := by
    rw [passReqFreq_eq]
    obtain h | h := hrequest
    · rw [h]
      exact hreq
    · rw [h]
      exact Nat.zero_mod _
  have hmove : passMove e r s v = none := by
    rw [passMove, hfreq]
    exact gate_of_no_request _ _ hrun
  rw [envPass_regulator, hmove, hreg, envPass_ops, hmove]
  refine ⟨?_, rfl⟩
  obtain h | h := hrequest
  · exact .inl (by rw [h]; rfl)
  · exact .inr (by rw [h]; rfl)

/-! When the regulator runs, and what a transition leaves of it (R220 to R222). -/

theorem invoked_iff (r : EnvReadings) (s : State) :
    invoked r s = true ↔ sampleAccepted s = true ∨ r.idleTick = true := by
  rw [invoked, Bool.or_eq_true]

theorem sampleAccepted_iff (s : State) :
    sampleAccepted s = true ↔ s.press.pending = true ∧ s.cfg.periodMin ≤ s.press.rawDelta.toNat ∧
      s.press.rawDelta.toNat ≤ s.cfg.periodMax := by
  rw [sampleAccepted, Bool.and_eq_true, plausible_iff]

/-- An invocation writes only what a stop clears. -/
theorem atRest_regulate (e : EnvConfig) (r : EnvReadings) (s : State) (g : Regulator) :
    (regulate e r s g).atRest = g.atRest := by
  unfold regulate
  split <;> rfl

theorem regulating_of_onTime {p : Rat} {flow : Bool} {tick : Nat} {g : Regulator} (hg : g.regulating = true)
    (h : (tick : Int) - g.regStartTime < g.stopDelay ∨ flow = true) :
    (g.invoke p flow tick).regulating = true := by
  show shouldRun p flow tick g = true
  simp only [shouldRun, hg, Bool.or_eq_true, decide_eq_true_eq, Bool.true_and]
  tauto

theorem gate_ne_stop {e : EnvConfig} {m : Byte} {d : Drive} {request : Nat} (hm : m = 0)
    (hreq : e.stopFrequency < request) : gate e m d request ≠ some .stop := by
  unfold gate
  simp only [hm, ne_eq, not_true_eq_false, false_or]
  split
  · rw [if_neg (by omega)]
    simp
  · split <;> simp

theorem regulating_after {g : Regulator} (hg : g.regulating = true) (tick : Nat) {m : Option Transition}
    (hm : m ≠ some .stop) : (g.after tick m).regulating = true := by
  cases m with
  | none => exact hg
  | some m =>
    cases m with
    | start => rw [Regulator.after, if_pos hg]
    | stop => exact absurd rfl hm

/-- A start that leaves the regulator on stamps it (log 33). -/
theorem after_start_of_regulating {g : Regulator} {tick : Nat} (h : (g.after tick (some .start)).regulating = true) :
    g.after tick (some .start) = { g.atRest with regulating := true, regStartTime := tick } := by
  rw [Regulator.after] at h ⊢
  split at h
  · rw [if_pos ‹_›]
  · cases h

/-- A pass that invokes a regulating regulator within its on-time or with flow requests above the stop frequency. -/
theorem stopFrequency_lt_passReqFreq {e : EnvConfig} {r : EnvReadings} {s : State} {v : EnvState}
    (hmask : visibleFault e (envPass e r s v).mask = 0) (hi : invoked r s = true)
    (hreg : (regulate e r s v.regulator).regulating = true) (hstop : e.stopFrequency < e.minFrequency)
    (hmin : e.minFrequency ≤ e.maxFrequency) (h16 : e.maxFrequency < 2 ^ 16) (hw : 16 ≤ s.cfg.freqW) :
    e.stopFrequency < passReqFreq e r s v := by
  have hvalue := toNat_requestOf hmin h16 (passPressure e s) (regulate e r s v.regulator)
  rw [if_pos hreg] at hvalue
  obtain ⟨hlow, hhigh⟩ := clampedRequest_range hmin (regulate e r s v.regulator).pressureOff (passPressure e s)
  have hfit : fit s.cfg.freqW (clampedRequest e (regulate e r s v.regulator).pressureOff (passPressure e s)) = _ :=
    fit_of_lt ((hhigh.trans_lt h16).trans_le (Nat.pow_le_pow_right (by decide) hw))
  rw [passReqFreq_eq, passRequested_of_invoked hmask hi, Option.map_some, Option.getD_some, hvalue, hfit]
  omega

/-- Settles O60: the request and the regulator of a pass by whether it invokes it, and by the transition it makes. -/
theorem regulatorFollowsSamples : Obligations.RegulatorFollowsSamples := by
  refine ⟨fun e r s v hsample hidle hmask => ?still, fun e r s v hrun => ?request,
    fun e r s v hrun hmask hreg htime hstop hmin h16 hw => ?onTime,
    fun e r s v => ⟨fun hstop => ?stop, fun hstart => ?start⟩⟩
  case still =>
    have hi : ¬ invoked r s = true := by
      rw [invoked_iff, hsample, hidle]
      decide
    refine ⟨fun x hx => ?_, fun hstart hstop => ?_⟩
    · rw [drvSetreq_mem_iff, passRequested_of_not_invoked hmask hi] at hx
      cases hx
    · have hmove : passMove e r s v = none := by
        cases hm : passMove e r s v with
        | none => rfl
        | some m =>
          cases m with
          | start => exact absurd (op_mem_envPass.mpr hm) hstart
          | stop => exact absurd (op_mem_envPass.mpr hm) hstop
      rw [envPass_regulator, hmove, regulate_of_not_invoked _ hi]
      rfl
  case request =>
    have hi : invoked r s = true := by rwa [invoked_iff, sampleAccepted_iff]
    simp only [drvSetreq_mem_iff]
    by_cases hmask : visibleFault e (envPass e r s v).mask = 0
    · exact ⟨_, passRequested_of_invoked hmask hi⟩
    · exact ⟨_, passRequested_of_fault hmask⟩
  case onTime =>
    have hi := (invoked_iff r s).mpr hrun
    have hon : (regulate e r s v.regulator).regulating = true := by
      rw [regulate_of_invoked _ hi]
      exact regulating_of_onTime hreg htime
    have hmove : passMove e r s v ≠ some .stop :=
      gate_ne_stop hmask (stopFrequency_lt_passReqFreq hmask hi hon hstop hmin h16 hw)
    refine ⟨fun hmem => hmove (op_mem_envPass.mp hmem), ?_⟩
    rw [envPass_regulator]
    exact regulating_after hon _ hmove
  case stop =>
    rw [envPass_regulator, (op_mem_envPass (m := .stop)).mp hstop]
    exact atRest_regulate e r s v.regulator
  case start =>
    rw [envPass_regulator, (op_mem_envPass (m := .start)).mp hstart]
    intro hreg
    rw [after_start_of_regulating hreg, atRest_regulate]
    rfl

end Sys2Proof.Machine
end
